-- ==== Sys2Proof/Word.lean ====
section
/-! DEFINITION. The two fixed-width words of the engine: the 32-bit bus and command word, and the byte of BUF. -/

namespace Sys2Proof

/-- A 32-bit word: a command word (R90) and the width of every control register (R23). -/
abbrev Word := BitVec 32

/-- One byte of the byte buffer BUF (R36). -/
abbrev Byte := BitVec 8

end Sys2Proof
end

