-- ==== Sys2Proof/Config.lean ====
section
/-! DEFINITION. The implementation parameters of the engine (R8) and the free values the spec leaves to the random source and
to reads while busy. -/

namespace Sys2Proof

/-- The named parameters of R8 that an engine instance fixes. `NREG` is 16 and `CMDW` is 32 for every engine, so both are in the
types (`Reg`, `Word`). `MAX_ATTEMPTS` and `MAX_DRAWS` belong to the host and are arguments of key generation, which
checks their ranges. -/
structure Config where
  /-- `W`: the width in bits of every big register (R8, R20). -/
  width : Nat
  /-- `BUFSZ`: the size in bytes of BUF (R8, R36). -/
  bufSize : Nat
  /-- `BASE`: the bus address of the 64 KiB window (R8, R60). -/
  base : Nat
  deriving DecidableEq, Repr

/-- `MR_ROUNDS_KEYGEN` of R8: the Miller-Rabin rounds used by key generation. -/
def Config.keygenRounds : Nat := 40

/-- The reference parameters of R8. `BASE` is OPEN there: 0 is a DESIGN CHOICE (log entry 2), and no statement rests on it. -/
def Config.reference : Config := { width := 2048, bufSize := 4096, base := 0 }

/-- The value of the `n`-th draw of the random source when the state supplies none (R190, U2). It has no body, so nothing can be
proved about which value it is (log entry 4). -/
opaque Config.freeDraw : Nat → Nat

/-- The value of the `n`-th host read that R320 leaves unspecified, when the state supplies none (U1). It has no body
(log entry 5). -/
opaque Config.freeRead : Nat → Nat

end Sys2Proof
end

