-- ==== Sys2Proof/Syntax.lean ====
section
/-! DEFINITION. The 24 commands of RSAE-1 (R97), one constructor per row of spec/opcode_table.json. -/

namespace Sys2Proof

/-- The number of a big register, R0 to R15 (R20, R93). -/
abbrev Reg := Fin 16

/-- A command with its operands, in the order of the assembly syntax (R102): destinations (D, then C, then E), sources (A, then B,
then C), then the immediate. -/
inductive Instr where
  /-- MOV rD, rA (R121). -/
  | mov (d a : Reg)
  /-- LDI rD, imm16 (R122). -/
  | ldi (d : Reg) (imm : BitVec 16)
  /-- ADD rD, rA, rB (R123). -/
  | add (d a b : Reg)
  /-- SUB rD, rA, rB (R124). -/
  | sub (d a b : Reg)
  /-- MUL rD, rA, rB (R125). -/
  | mul (d a b : Reg)
  /-- DIVMOD rD, rC, rA, rB: quotient, remainder, dividend, divisor (R126). -/
  | divmod (d c a b : Reg)
  /-- CMP rA, rB (R141). -/
  | cmp (a b : Reg)
  /-- SHL rD, rA, imm8 (R142). -/
  | shl (d a : Reg) (imm : BitVec 8)
  /-- SHR rD, rA, imm8 (R143). -/
  | shr (d a : Reg) (imm : BitVec 8)
  /-- SHLV rD, rA, rB (R144). -/
  | shlv (d a b : Reg)
  /-- SHRV rD, rA, rB (R145). -/
  | shrv (d a b : Reg)
  /-- BITLEN rD, rA (R146). -/
  | bitlen (d a : Reg)
  /-- GCD rD, rA, rB (R161). -/
  | gcd (d a b : Reg)
  /-- XGCD rD, rC, rE, rA, rB: g, s, t, a, b (R162). -/
  | xgcd (d c e a b : Reg)
  /-- MODINV rD, rA, rB: inverse, value, modulus (R164). -/
  | modinv (d a b : Reg)
  /-- MRTEST rA, imm8: candidate, rounds (R181). -/
  | mrtest (a : Reg) (imm : BitVec 8)
  /-- RAND rD, rA: destination, bound (R191). -/
  | rand (d a : Reg)
  /-- BSIZE rD, rA: block size, modulus (R201). -/
  | bsize (d a : Reg)
  /-- PACK rD, rA, rB, rC: block, offset, count, modulus (R202). -/
  | pack (d a b c : Reg)
  /-- UNPACK rA, rB, rC: offset, count, block (R204). -/
  | unpack (a b c : Reg)
  /-- MARKER rD, rA, rB: marker, length, block size (R206). -/
  | marker (d a b : Reg)
  /-- DLEN rD, rA, rB, rC: length, data-block count, marker, block size (R207). -/
  | dlen (d a b c : Reg)
  /-- MODMUL rD, rA, rB, rC: destination, factors, modulus (R231). -/
  | modmul (d a b c : Reg)
  /-- MODEXP rD, rA, rB, rC: destination, base, exponent, modulus (R232). -/
  | modexp (d a b c : Reg)
  deriving DecidableEq, Repr

/-- The rows of the command table (R97), without their operands. -/
inductive Opcode where
  | mov | ldi | add | sub | mul | divmod
  | cmp | shl | shr | shlv | shrv | bitlen
  | gcd | xgcd | modinv | mrtest | rand
  | bsize | pack | unpack | marker | dlen
  | modmul | modexp
  deriving DecidableEq, Repr

/-- The row an instruction belongs to. -/
def Instr.opcode : Instr → Opcode
  | .mov .. => .mov
  | .ldi .. => .ldi
  | .add .. => .add
  | .sub .. => .sub
  | .mul .. => .mul
  | .divmod .. => .divmod
  | .cmp .. => .cmp
  | .shl .. => .shl
  | .shr .. => .shr
  | .shlv .. => .shlv
  | .shrv .. => .shrv
  | .bitlen .. => .bitlen
  | .gcd .. => .gcd
  | .xgcd .. => .xgcd
  | .modinv .. => .modinv
  | .mrtest .. => .mrtest
  | .rand .. => .rand
  | .bsize .. => .bsize
  | .pack .. => .pack
  | .unpack .. => .unpack
  | .marker .. => .marker
  | .dlen .. => .dlen
  | .modmul .. => .modmul
  | .modexp .. => .modexp

/-- A line of assembly: a command, or one of the four pseudo-instructions of R103. -/
inductive AsmLine where
  | command (i : Instr)
  /-- CLR rD. -/
  | clr (d : Reg)
  /-- MOD rD, rA, rB. -/
  | mod (d a b : Reg)
  /-- SQRMOD rD, rA, rC. -/
  | sqrmod (d a c : Reg)
  /-- INV rD, rA, rB. -/
  | inv (d a b : Reg)
  deriving DecidableEq, Repr

end Sys2Proof
end

