-- ==== Sys2Proof/Machine/State.lean ====
section
/-! DEFINITION. The state of the engine and its bus (R20 to R42), the reasons a step can stop, and the state after reset (R41). -/

namespace Sys2Proof.Machine

/-- The byte buffer BUF (R36) as offset and byte pairs in one canonical form: offsets strictly rising, and no entry that is 0, which
is what an unlisted offset reads as (R41: every BUF byte is 0x00 after reset). -/
abbrev Memory := List Host.Cell

/-- The eight flags of FLAGS[7:0] (R33, R34). -/
structure Flags where
  /-- bit 0: the command's D-field result is 0; for DIVMOD, the remainder is 0 -/
  z : Bool
  /-- bit 1: carry out of ADD, or borrow out of SUB -/
  c : Bool
  /-- bit 2: a nonzero bit was lost above bit W-1 -/
  v : Bool
  /-- bit 3: CMP found x[A] < x[B] -/
  lt : Bool
  /-- bit 4: CMP found x[A] = x[B] -/
  eq : Bool
  /-- bit 5: CMP found x[A] > x[B] -/
  gt : Bool
  /-- bit 6: MRTEST accepted the candidate -/
  p : Bool
  /-- bit 7: UNPACK dropped nonzero high-order digits -/
  t : Bool
  deriving DecidableEq, Repr

/-- Every flag 0, the value after reset (R34, R41). -/
def Flags.zero : Flags :=
  { z := false, c := false, v := false, lt := false, eq := false, gt := false, p := false, t := false }

/-- The fault codes of a command (R284). A command that faults still completes: the fault is a record in STATUS, ERRCODE and
ERRCMD, and the engine goes on (R283, R289). -/
inductive FaultCode where
  | illegalOpcode
  | reservedField
  | modZero
  | divZero
  | notInvertible
  | modOvfBlock
  | bufRange
  | blkZero
  | malformed
  | emptyRange
  deriving DecidableEq, Repr

/-- The hidden phase of the engine (R38). STATUS.BUSY is 1 exactly in `exec` and `zeroise`. -/
inductive Phase where
  | idle
  | exec
  | zeroise
  deriving DecidableEq, Repr

/-- The widths of a host access (R66). -/
inductive Width where
  | byte
  | half
  | word
  deriving DecidableEq, Repr

/-- What the bus answers to a host access (R66, R67). -/
inductive BusResponse where
  /-- a legal read, with the four byte lanes of the 32-bit data bus (R70) -/
  | data (lanes : Word)
  /-- a legal write, performed or ignored -/
  | written
  /-- the bus's error response to a refused access -/
  | error
  deriving DecidableEq, Repr

/-- One move of one agent (R17): the engine's own step, a host access at a bus address, or the platform's hardware reset input
(R310). A write carries the four byte lanes of the data bus as the host drives them (R70). -/
inductive Move where
  | engine
  | read (width : Width) (addr : Nat)
  | write (width : Width) (addr : Nat) (lanes : Word)
  | hardReset
  deriving DecidableEq, Repr

/-- Values that the spec leaves free, as an input of the machine: the values supplied from outside, in order, and how many were
taken so far. When none is left, the `taken`-th value is a constant of Config that has no body (log entries 4 and 5). -/
structure FreeStream where
  supplied : List Nat
  taken : Nat
  deriving DecidableEq, Repr

/-- The whole machine. The last four fields are the model's own (log entries 3 to 6): the free values, the order in which host and
engine move, and the bus's last answer. -/
structure State where
  /-- `W`, `BUFSZ` and `BASE` (R8, R32, R42): never changed by a step -/
  config : Config
  /-- the big registers R0 to R15, each an unsigned integer in `[0, 2^W)` (R20) -/
  regs : Vector Nat 16
  /-- the byte buffer BUF (R36) -/
  buf : Memory
  /-- FLAGS[7:0] (R33) -/
  flags : Flags
  /-- CTRL.IE, the completion-interrupt enable (R28) -/
  ie : Bool
  /-- STATUS.DONE (R29) -/
  done : Bool
  /-- STATUS.ERR (R29) -/
  err : Bool
  /-- STATUS.OVR (R29) -/
  ovr : Bool
  /-- ERRCODE[7:0] (R31) -/
  errcode : BitVec 8
  /-- ERRCMD (R35) -/
  errcmd : Word
  /-- the command latch (R30, R38) -/
  latch : Word
  /-- the phase (R38), which is STATUS.BUSY (R29) -/
  phase : Phase
  /-- the values the random source will give (R37, R190) -/
  draws : FreeStream
  /-- the values that host reads while busy will give (R320) -/
  busyReads : FreeStream
  /-- the moves still to come, the next one first (R17) -/
  schedule : List Move
  /-- the answer to the last host access -/
  response : Option BusResponse
  deriving DecidableEq, Repr

/-- The reasons for which the machine stops with a fault. A command's own fault is none of them: it is a next state. -/
inductive Fault where
  /-- A host access at a bus address outside the engine's window `[BASE, BASE + 0x10000)`, which the engine does not decode (R60,
  R62). Raised by the step of that access. Safe: the model stops where the platform's other devices would answer. -/
  | outsideWindow (addr : Nat)
  deriving DecidableEq, Repr

/-- The reasons for which the machine gives no meaning. -/
inductive Refusal where
  /-- The instruction with this mnemonic has no meaning yet. Raised by `exec`'s arms only, and by none of them now. Safe. -/
  | notModelled (mnemonic : String)
  /-- The parameters of the state are outside the legal ranges of R8, so it is the state of no engine. Raised by every step. Safe. -/
  | illegalConfig
  deriving DecidableEq, Repr

/-- The state of R41 of an engine with parameters `c`: after a reset, once zeroisation has ended. -/
def State.resetOf (c : Config) : State :=
  { config := c
    regs := Vector.replicate 16 0
    buf := []
    flags := Flags.zero
    ie := false
    done := false
    err := false
    ovr := false
    errcode := 0
    errcmd := 0
    latch := 0
    phase := .idle
    draws := { supplied := [], taken := 0 }
    busyReads := { supplied := [], taken := 0 }
    schedule := []
    response := none }

/-- The machine right after reset (R41), with the reference parameters of R8. -/
def State.reset : State := State.resetOf Config.reference

end Sys2Proof.Machine
end

