-- ==== Sys2Proof/Machine/Ops.lean ====
section
/-! DEFINITION. The operations every command is written over: reading and writing BUF and the big registers (R12), free values
(R190, R320), and the lifecycle of a command: acceptance, completion, faulting, reset and zeroisation (R280 to R283, R311,
R312). -/

namespace Sys2Proof.Machine

/-! ### The byte buffer -/

/-- The byte at an offset; an unlisted offset reads 0 (R41). -/
def Memory.read (m : Memory) (o : Nat) : Byte :=
  match m with
  | [] => 0
  | (k, b) :: rest => if k = o then b else Memory.read rest o

/-- Writes one byte and keeps the canonical form: writing 0 removes the entry. -/
def Memory.write (m : Memory) (o : Nat) (b : Byte) : Memory :=
  match m with
  | [] => if b = 0 then [] else [(o, b)]
  | (k, c) :: rest =>
    if k < o then (k, c) :: Memory.write rest o b
    else if k = o then (if b = 0 then rest else (o, b) :: rest)
    else if b = 0 then (k, c) :: rest else (o, b) :: (k, c) :: rest

/-- Offsets at `lo` or above, strictly rising, and no entry 0. -/
def Memory.wfFrom (lo : Nat) (m : Memory) : Bool :=
  match m with
  | [] => true
  | (k, b) :: rest => decide (lo ≤ k) && decide (b ≠ 0) && Memory.wfFrom (k + 1) rest

/-- The canonical form of BUF. -/
def Memory.wf (m : Memory) : Bool := Memory.wfFrom 0 m

/-- Every listed offset is below `n`. -/
def Memory.below (n : Nat) (m : Memory) : Bool := m.all (fun e => decide (e.1 < n))

/-- `MemRead(o, n)`, "the little-endian value of `n` buffer bytes at offset `o`" (R12, R69). -/
def memRead (m : Memory) (o : Nat) : Nat → Nat
  | 0 => 0
  | n + 1 => memRead m o n + (m.read (o + n)).toNat * 256 ^ n

/-- `MemWrite(o, n, v)`: byte `o + i` becomes `(v div 256**i) mod 256` for each `i < n` (R12, R69). -/
def memWrite (m : Memory) (o : Nat) (v : Nat) : Nat → Memory
  | 0 => m
  | n + 1 => (memWrite m o v n).write (o + n) (BitVec.ofNat 8 (v / 256 ^ n % 256))

/-! ### Registers, flags and BUF of a state -/

/-- `x[i]`, a read of big register Ri (R12, R93): the full unsigned value. -/
def State.reg (s : State) (r : Reg) : Nat := s.regs[r]

/-- `x[i] <- v`, a write of big register Ri (R12). The value written is in `[0, 2^W)`. -/
def State.setReg (s : State) (r : Reg) (v : Nat) : State := { s with regs := s.regs.set r v }

/-- Writes the flags. -/
def State.setFlags (s : State) (f : Flags) : State := { s with flags := f }

/-- Writes BUF. -/
def State.setBuf (s : State) (m : Memory) : State := { s with buf := m }

/-- Writes the stream of the random source. -/
def State.setDraws (s : State) (d : FreeStream) : State := { s with draws := d }

/-! ### Free values -/

/-- The next free value of a stream and the stream after it; `free` gives the value when none is supplied. -/
def FreeStream.take (free : Nat → Nat) (st : FreeStream) : Nat × FreeStream :=
  match st.supplied with
  | [] => (free st.taken, { supplied := [], taken := st.taken + 1 })
  | v :: rest => (v, { supplied := rest, taken := st.taken + 1 })

/-- The element of `{lo, ..., lo + n - 1}` that a free value stands for: the value itself where it is an element. -/
def elementOf (lo n v : Nat) : Nat := if lo ≤ v ∧ v < lo + n then v else lo + v % n

/-- `draw({lo, ..., lo + n - 1})` (R190): one value of the random source, any element of the set. -/
def draw (lo n : Nat) (st : FreeStream) : Nat × FreeStream :=
  (elementOf lo n (st.take Config.freeDraw).1, (st.take Config.freeDraw).2)

/-! ### The lifecycle of a command -/

/-- STATUS.BUSY: "STATUS.BUSY = 1 exactly when phase is `EXEC` or `ZEROISE`" (R38). -/
def State.busy (s : State) : Bool := decide (s.phase ≠ .idle)

/-- The IRQ output, `CTRL.IE & STATUS.DONE` at all times (R39, R288). -/
def State.irq (s : State) : Bool := s.ie && s.done

/-- The 8-bit code of a fault (R284). -/
def FaultCode.byte : FaultCode → BitVec 8
  | .illegalOpcode => 0x01
  | .reservedField => 0x02
  | .modZero => 0x03
  | .divZero => 0x04
  | .notInvertible => 0x05
  | .modOvfBlock => 0x06
  | .bufRange => 0x07
  | .blkZero => 0x08
  | .malformed => 0x09
  | .emptyRange => 0x0A

/-- Acceptance of a command word (R280). The snapshot of R280 is the state's own registers, BUF and FLAGS, which nothing changes
before the completion (log entry 7). -/
def State.accept (s : State) (w : Word) : State :=
  { s with latch := w, done := false, err := false, errcode := 0, phase := .exec }

/-- The end of a completion, with or without fault: STATUS.DONE is set and the engine is idle (R282). -/
def State.finish (s : State) : State := { s with done := true, phase := .idle }

/-- The fault record: ERRCODE, ERRCMD and STATUS.ERR (R282, R283). -/
def State.recordFault (s : State) (code : FaultCode) : State :=
  { s with errcode := code.byte, errcmd := s.latch, err := true }

/-- A successful completion: `s` already holds the command's writes (R282). -/
def complete (s : State) : Host.Outcome State Fault Refusal := .next s.finish

/-- `raise Fault(code)`: the completion with a fault. It writes no register, no BUF byte and no flag (R283). There is no trap and
so no return from one (R289): the host reads the record and writes the next command. -/
def raiseFault (code : FaultCode) (s : State) : Host.Outcome State Fault Refusal := .next (s.recordFault code).finish

/-- Reset entry, on either reset source and in every phase (R310, R311). A command in progress is abandoned. The registers, BUF and
FLAGS keep their values until zeroisation. -/
def State.resetEntry (s : State) : State :=
  { s with
    ie := false
    done := false
    err := false
    ovr := false
    errcode := 0
    errcmd := 0
    latch := 0
    phase := .zeroise }

/-- Zeroisation, the engine step that ends a reset (R312). It does not set DONE, and keeps OVR. -/
def State.zeroiseAll (s : State) : State :=
  { s with
    regs := Vector.replicate 16 0
    buf := []
    flags := Flags.zero
    phase := .idle }

end Sys2Proof.Machine
end

