-- ==== Sys2Proof/Machine/Operands.lean ====
section
/-! DEFINITION. The operand forms and the integer operators of R11 and R93 to R94: truncation, immediates, bit length, exact
modular powers, and the range check of a BUF operand. -/

namespace Sys2Proof.Machine

/-- `W` of the engine (R8). -/
def State.width (s : State) : Nat := s.config.width

/-- `trunc_W(v)` of a non-negative integer (R11). -/
def truncW (W v : Nat) : Nat := v % 2 ^ W

/-- `trunc_W(v)` of any integer: its W-bit two's complement (R11). -/
def truncIntW (W : Nat) (v : Int) : Nat := (v % (2 ^ W : Nat)).toNat

/-- `sext_W(v)`: the signed value of a W-bit value (R11). -/
def sextW (W v : Nat) : Int := if v / 2 ^ (W - 1) % 2 = 1 then (v : Int) - (2 ^ W : Nat) else v

/-- IMM8 as an unsigned number 0 to 255, never sign-extended, scaled or shifted (R94). -/
def imm8Value (imm : BitVec 8) : Nat := imm.toNat

/-- IMM16 as an unsigned number 0 to 65535, zero-extended to W bits (R94). -/
def imm16Value (imm : BitVec 16) : Nat := imm.toNat

/-- `bitlen(v)`: 0 for 0, else the unique `b` with `2^(b-1) <= v < 2^b` (R11). -/
def bitlen (v : Nat) : Nat := if v = 0 then 0 else Nat.log2 v + 1

/-- The exact left shift `v * 2**k`, without computing `2**k` when every bit leaves the W-bit result: for `k >= W` the stand-in
`v * 2**W` has the same truncation and the same loss (R144). -/
def shiftLeftExact (W v k : Nat) : Nat := if k < W then v * 2 ^ k else v * 2 ^ W

/-- The logical right shift `v div 2**k`, which is 0 for `k >= W` (R145). -/
def shiftRight (W v k : Nat) : Nat := if k < W then v / 2 ^ k else 0

/-- Square and multiply over the bits of `e` from the lowest: `acc * b ** e mod m`, where `fuel` is at least the bit length of
`e`. -/
def powModLoop (m : Nat) : Nat → Nat → Nat → Nat → Nat
  | 0, _, _, acc => acc % m
  | fuel + 1, b, e, acc =>
    if e = 0 then acc % m
    else powModLoop m fuel (b * b % m) (e / 2) (if e % 2 = 1 then acc * b % m else acc)

/-- `(b ** e) mod m` with `0 ** 0 = 1` (R11, R232). The method is free, the result exact for every modulus (R233). -/
def powMod (b e m : Nat) : Nat := powModLoop m (bitlen e) (b % m) e 1

/-- The range check of a BUF operand: `count > W/8` or `offset + count > BUFSZ`, computed exactly with no wrap (R203, R205). -/
def State.bufRangeBad (s : State) (offset count : Nat) : Bool :=
  decide (count > s.width / 8 ∨ offset + count > s.config.bufSize)

end Sys2Proof.Machine
end

