-- ==== Sys2Proof/Machine/Registers.lean ====
section
/-! DEFINITION. The control registers as the host reads and writes them (R23 to R35): the words they read as, and the effect of a
write. -/

namespace Sys2Proof.Machine

/-- The eight control registers (R24). -/
inductive CtrlReg where
  | id
  | ctrl
  | status
  | cmd
  | errcode
  | param
  | flags
  | errcmd
  deriving DecidableEq, Repr

/-- The register at a 4-byte slot of the range 0x000 to 0x01F (R24). -/
def CtrlReg.ofSlot (n : Nat) : Option CtrlReg :=
  [CtrlReg.id, .ctrl, .status, .cmd, .errcode, .param, .flags, .errcmd][n]?

/-- ID: MAGIC "RSA" in bits 31:8 and REV 0x01 in bits 7:0 (R27). -/
def idWord : Word := BitVec.ofNat 32 (0x525341 * 2 ^ 8 + 0x01)

/-- CTRL: IE in bit 0; SRST and the reserved bits read 0 (R28). -/
def State.ctrlWord (s : State) : Word := BitVec.ofNat 32 s.ie.toNat

/-- STATUS: BUSY, DONE, ERR and OVR in bits 0 to 3 (R29). -/
def State.statusWord (s : State) : Word :=
  BitVec.ofNat 32 (s.busy.toNat + 2 * s.done.toNat + 4 * s.err.toNat + 8 * s.ovr.toNat)

/-- ERRCODE: the code in bits 7:0 (R31). -/
def State.errcodeWord (s : State) : Word := BitVec.ofNat 32 s.errcode.toNat

/-- PARAM: BUFSZ in bits 31:16 and W in bits 15:0 (R32). -/
def State.paramWord (s : State) : Word :=
  BitVec.ofNat 32 (s.config.bufSize % 2 ^ 16 * 2 ^ 16 + s.config.width % 2 ^ 16)

/-- FLAGS[7:0] (R33, R34). -/
def Flags.toWord (f : Flags) : Word :=
  BitVec.ofNat 32 (f.z.toNat + 2 * f.c.toNat + 4 * f.v.toNat + 8 * f.lt.toNat + 16 * f.eq.toNat + 32 * f.gt.toNat +
    64 * f.p.toNat + 128 * f.t.toNat)

/-- All eight flags from bits 7:0 of a written word (R33). -/
def Flags.ofWord (w : Word) : Flags :=
  { z := w.getLsbD 0
    c := w.getLsbD 1
    v := w.getLsbD 2
    lt := w.getLsbD 3
    eq := w.getLsbD 4
    gt := w.getLsbD 5
    p := w.getLsbD 6
    t := w.getLsbD 7 }

/-- What a control register reads as while FLAGS is defined (R24). CMD reads 0 (R30). -/
def State.ctrlRead (s : State) (r : CtrlReg) : Word :=
  match r with
  | .id => idWord
  | .ctrl => s.ctrlWord
  | .status => s.statusWord
  | .cmd => 0
  | .errcode => s.errcodeWord
  | .param => s.paramWord
  | .flags => s.flags.toWord
  | .errcmd => s.errcmd

/-- A write that is ignored because the engine is busy: it only sets STATUS.OVR (R26, R319). -/
def State.overrun (s : State) : State := { s with ovr := true }

/-- A write of CTRL: SRST = 1 resets, and discards the IE bit of the same write; else IE is set from bit 0 (R28). -/
def State.writeCtrl (s : State) (w : Word) : State :=
  if w.getLsbD 1 then s.resetEntry else { s with ie := w.getLsbD 0 }

/-- A write of STATUS clears each of DONE, ERR and OVR that is written with 1; BUSY is read-only (R29). -/
def State.writeStatus (s : State) (w : Word) : State :=
  { s with
    done := s.done && !w.getLsbD 1
    err := s.err && !w.getLsbD 2
    ovr := s.ovr && !w.getLsbD 3 }

/-- A write of CMD: accepted while idle (R30, R280), else an overrun. -/
def State.writeCmd (s : State) (w : Word) : State := if s.busy then s.overrun else s.accept w

/-- A write of FLAGS: all eight flags while idle (R33), else an overrun. -/
def State.writeFlags (s : State) (w : Word) : State := if s.busy then s.overrun else s.setFlags (Flags.ofWord w)

/-- The effect of a write to a control register (R25, R26, R74): the read-only ones ignore it in every phase. -/
def State.ctrlWrite (s : State) (r : CtrlReg) (w : Word) : State :=
  match r with
  | .id => s
  | .ctrl => s.writeCtrl w
  | .status => s.writeStatus w
  | .cmd => s.writeCmd w
  | .errcode => s
  | .param => s
  | .flags => s.writeFlags w
  | .errcmd => s

end Sys2Proof.Machine
end

