-- ==== Sys2Proof/Machine/Bus.lean ====
section
/-! DEFINITION. Host accesses to the 64 KiB window (R60 to R74): the window map, legal widths and alignment, the register and buffer
windows, and the answer of the bus. -/

namespace Sys2Proof.Machine

/-- The size of an access in bytes. -/
def Width.bytes : Width → Nat
  | .byte => 1
  | .half => 2
  | .word => 4

/-- Where an offset of the window leads (R61). -/
inductive Region where
  /-- a control register (R24) -/
  | control (r : CtrlReg)
  /-- 0x0020 to 0x3FFF (R65) -/
  | unmapped
  /-- word `j` of the slot of register Ri (R63) -/
  | register (i : Reg) (j : Nat)
  /-- byte `o` of the buffer window (R64) -/
  | buffer (o : Nat)
  deriving DecidableEq, Repr

/-- The window map (R61, R63, R64), for an offset below 0x10000. -/
def regionOf (offset : Nat) : Region :=
  if offset < 0x4000 then
    match CtrlReg.ofSlot (offset / 4) with
    | some r => .control r
    | none => .unmapped
  else if offset < 0x8000 then
    .register (Fin.ofNat 16 ((offset - 0x4000) / 0x400)) ((offset - 0x4000) % 0x400 / 4)
  else .buffer (offset - 0x8000)

/-- The legal accesses (R66): aligned 32-bit accesses outside the buffer window, naturally aligned ones of 8, 16 or 32 bits
inside it. -/
def accessLegal (width : Width) (offset : Nat) : Bool :=
  decide (offset % width.bytes = 0) && (decide (width = .word) || decide (0x8000 ≤ offset))

/-- Word `j` of a register value: bits `32j+31 : 32j` (R63, R71). -/
def wordOf (x j : Nat) : Nat := x / 2 ^ (32 * j) % 2 ^ 32

/-- A register value with word `j` replaced (R63). -/
def replaceWord (x j v : Nat) : Nat :=
  x % 2 ^ (32 * j) + v * 2 ^ (32 * j) + x / 2 ^ (32 * (j + 1)) * 2 ^ (32 * (j + 1))

/-- A read of the register window while idle: words `j >= W/32` read 0 (R63). -/
def State.readRegWord (s : State) (i : Reg) (j : Nat) : Word :=
  if j < s.width / 32 then BitVec.ofNat 32 (wordOf (s.reg i) j) else 0

/-- A write of the register window while idle: words `j >= W/32` are ignored (R63). -/
def State.writeRegWord (s : State) (i : Reg) (j : Nat) (w : Word) : State :=
  if j < s.width / 32 then s.setReg i (replaceWord (s.reg i) j w.toNat) else s

/-- A byte of the buffer window: bytes at `BUFSZ` and above read 0 (R64). -/
def State.bufByte (s : State) (o : Nat) : Byte := if o < s.config.bufSize then s.buf.read o else 0

/-- A read of `n` bytes of the buffer window while idle, little-endian (R64, R72). -/
def State.readBuf (s : State) (o : Nat) : Nat → Nat
  | 0 => 0
  | n + 1 => s.readBuf o n + (s.bufByte (o + n)).toNat * 256 ^ n

/-- A write of `n` bytes of the buffer window while idle: bytes at `BUFSZ` and above are ignored (R64). -/
def writeBufBytes (size : Nat) (m : Memory) (o v : Nat) : Nat → Memory
  | 0 => m
  | n + 1 =>
    if o + n < size then (writeBufBytes size m o v n).write (o + n) (BitVec.ofNat 8 (v / 256 ^ n % 256))
    else writeBufBytes size m o v n

/-- The value an access at `offset` transfers on the data bus: the byte lanes `offset % 4` and up, as many as the access is wide
(R70, R72), zero-extended. -/
def laneValue (width : Width) (offset : Nat) (lanes : Word) : Word :=
  BitVec.ofNat 32 (lanes.toNat / 256 ^ (offset % 4) % 256 ^ width.bytes)

/-- Byte lanes that R320 leaves unspecified, from the free values for reads while busy. -/
def State.busyRead (s : State) : State × Word :=
  ({ s with busyReads := (s.busyReads.take Config.freeRead).2 }, BitVec.ofNat 32 (s.busyReads.take Config.freeRead).1)

/-- A legal read (R63 to R65, R24): the state after it, which differs only in the free values taken, and the data bus, on which byte
lane `b` carries the byte at offset `4*(offset div 4) + b`, whatever the width of the access (R70, log entry 15). While busy, the
register window, the buffer window and FLAGS read an unspecified value (R320); every other read is defined in every phase. -/
def State.legalRead (s : State) (offset : Nat) : State × Word :=
  match regionOf offset with
  | .control .flags => if s.busy then s.busyRead else (s, s.ctrlRead .flags)
  | .control r => (s, s.ctrlRead r)
  | .unmapped => (s, 0)
  | .register i j => if s.busy then s.busyRead else (s, s.readRegWord i j)
  | .buffer o => if s.busy then s.busyRead else (s, BitVec.ofNat 32 (s.readBuf (4 * (o / 4)) 4))

/-- A legal write (R63 to R65, R74) of the byte lanes that belong to the access (R70). While busy, a write to CMD, FLAGS, the register window or the buffer window only sets OVR, even
where the word or byte is RAZ/WI (R319); the unmapped range never sets OVR (R65). -/
def State.legalWrite (s : State) (width : Width) (offset : Nat) (lanes : Word) : State :=
  match regionOf offset with
  | .control r => s.ctrlWrite r lanes
  | .unmapped => s
  | .register i j => if s.busy then s.overrun else s.writeRegWord i j lanes
  | .buffer o =>
    if s.busy then s.overrun
    else s.setBuf (writeBufBytes s.config.bufSize s.buf o (laneValue width offset lanes).toNat width.bytes)

/-- The answer of the bus to the last access. -/
def State.respond (s : State) (r : BusResponse) : State := { s with response := some r }

/-- A host read at a window offset: a refused one answers the bus error and changes nothing else (R67). -/
def State.hostRead (s : State) (width : Width) (offset : Nat) : State :=
  if accessLegal width offset then
    (s.legalRead offset).1.respond (.data (s.legalRead offset).2)
  else s.respond .error

/-- A host write at a window offset: a refused one answers the bus error and changes nothing else (R67). -/
def State.hostWrite (s : State) (width : Width) (offset : Nat) (lanes : Word) : State :=
  if accessLegal width offset then (s.legalWrite width offset lanes).respond .written
  else s.respond .error

/-- The bus address `addr` lies in the window `[BASE, BASE + 0x10000)` (R60). -/
def inWindow (c : Config) (addr : Nat) : Bool := decide (c.base ≤ addr ∧ addr < c.base + 0x10000)

/-- A host read at a bus address (R60). -/
def busRead (width : Width) (addr : Nat) (s : State) : Host.Outcome State Fault Refusal :=
  if inWindow s.config addr then .next (s.hostRead width (addr - s.config.base))
  else .fault (.outsideWindow addr)

/-- A host write at a bus address (R60). -/
def busWrite (width : Width) (addr : Nat) (lanes : Word) (s : State) : Host.Outcome State Fault Refusal :=
  if inWindow s.config addr then .next (s.hostWrite width (addr - s.config.base) lanes)
  else .fault (.outsideWindow addr)

end Sys2Proof.Machine
end

