-- ==== Sys2Proof/Decode.lean ====
section
/-! DEFINITION. The command encoding (R90 to R105): the command table, the decoder and its two faults, the encoder, and the
assembly syntax. -/

namespace Sys2Proof

/-- `v[hi:lo]`, the bits `hi` down to `lo` of a non-negative integer as an unsigned number (R10). -/
def bits (v hi lo : Nat) : Nat := v / 2 ^ lo % 2 ^ (hi + 1 - lo)

/-- The 4-bit register field whose lowest bit is bit `lo` (R92, R93). -/
def regField (w : Word) (lo : Nat) : Reg := Fin.ofNat 16 (bits w.toNat (lo + 3) lo)

/-- `cmd.OP` (R92). -/
def cmdOP (w : Word) : Nat := bits w.toNat 7 0

/-- `cmd.D` (R92). -/
def cmdD (w : Word) : Reg := regField w 8

/-- `cmd.A` (R92). -/
def cmdA (w : Word) : Reg := regField w 12

/-- `cmd.B` (R92). -/
def cmdB (w : Word) : Reg := regField w 16

/-- `cmd.C` (R92). -/
def cmdC (w : Word) : Reg := regField w 20

/-- `cmd.E` (R92), format X only. -/
def cmdE (w : Word) : Reg := regField w 24

/-- `cmd.IMM8` (R92), format R only. -/
def cmdIMM8 (w : Word) : BitVec 8 := BitVec.ofNat 8 (bits w.toNat 31 24)

/-- `cmd.IMM16` (R92), format I only. -/
def cmdIMM16 (w : Word) : BitVec 16 := BitVec.ofNat 16 (bits w.toNat 31 16)

/-- The rows of R97 in the order of their OP values. -/
def Opcode.all : List Opcode :=
  [.mov, .ldi, .add, .sub, .mul, .divmod] ++ [.cmp, .shl, .shr, .shlv, .shrv, .bitlen] ++
  [.gcd, .xgcd, .modinv, .mrtest, .rand] ++ [.bsize, .pack, .unpack, .marker, .dlen] ++ [.modmul, .modexp]

/-- The OP value of each row (R97). -/
def Opcode.byte : Opcode → Nat
  | .mov => 0x01
  | .ldi => 0x02
  | .add => 0x10
  | .sub => 0x11
  | .mul => 0x12
  | .divmod => 0x13
  | .cmp => 0x20
  | .shl => 0x21
  | .shr => 0x22
  | .shlv => 0x23
  | .shrv => 0x24
  | .bitlen => 0x25
  | .gcd => 0x30
  | .xgcd => 0x31
  | .modinv => 0x32
  | .mrtest => 0x38
  | .rand => 0x39
  | .bsize => 0x40
  | .pack => 0x41
  | .unpack => 0x42
  | .marker => 0x43
  | .dlen => 0x44
  | .modmul => 0x50
  | .modexp => 0x51

/-- The mnemonic of each row (R97). -/
def Opcode.mnemonic : Opcode → String
  | .mov => "MOV"
  | .ldi => "LDI"
  | .add => "ADD"
  | .sub => "SUB"
  | .mul => "MUL"
  | .divmod => "DIVMOD"
  | .cmp => "CMP"
  | .shl => "SHL"
  | .shr => "SHR"
  | .shlv => "SHLV"
  | .shrv => "SHRV"
  | .bitlen => "BITLEN"
  | .gcd => "GCD"
  | .xgcd => "XGCD"
  | .modinv => "MODINV"
  | .mrtest => "MRTEST"
  | .rand => "RAND"
  | .bsize => "BSIZE"
  | .pack => "PACK"
  | .unpack => "UNPACK"
  | .marker => "MARKER"
  | .dlen => "DLEN"
  | .modmul => "MODMUL"
  | .modexp => "MODEXP"

/-- The bit ranges `(hi, lo)` that a row does not use or that its format fixes at 0 (R91, R95, R97): a 1 there is the fault
RESERVED_FIELD. -/
def Opcode.zeroRanges : Opcode → List (Nat × Nat)
  | .mov => [(31, 16)]
  | .ldi => [(15, 12)]
  | .add => [(31, 20)]
  | .sub => [(31, 20)]
  | .mul => [(31, 20)]
  | .divmod => [(31, 24)]
  | .cmp => [(11, 8), (31, 20)]
  | .shl => [(23, 16)]
  | .shr => [(23, 16)]
  | .shlv => [(31, 20)]
  | .shrv => [(31, 20)]
  | .bitlen => [(31, 16)]
  | .gcd => [(31, 20)]
  | .xgcd => [(31, 28)]
  | .modinv => [(31, 20)]
  | .mrtest => [(11, 8), (23, 16)]
  | .rand => [(31, 16)]
  | .bsize => [(31, 16)]
  | .pack => [(31, 24)]
  | .unpack => [(11, 8), (31, 24)]
  | .marker => [(31, 20)]
  | .dlen => [(31, 24)]
  | .modmul => [(31, 24)]
  | .modexp => [(31, 24)]

/-- The row with a given OP value, if R97 has one (R98). -/
def Opcode.ofByte (op : Nat) : Option Opcode := Opcode.all.find? (fun o => o.byte == op)

/-- Every reserved bit of the row is 0 in the word (R95). -/
def Opcode.reservedClear (o : Opcode) (w : Word) : Bool :=
  o.zeroRanges.all (fun r => bits w.toNat r.1 r.2 == 0)

/-- The mask of a row: OP and every reserved bit (R95). -/
def Opcode.mask (o : Opcode) : Nat :=
  0xFF + (o.zeroRanges.map (fun r => 2 ^ (r.1 + 1) - 2 ^ r.2)).sum

/-- The command of a row with the operands of a word (R92, R97). -/
def Opcode.instr (o : Opcode) (w : Word) : Instr :=
  match o with
  | .mov => .mov (cmdD w) (cmdA w)
  | .ldi => .ldi (cmdD w) (cmdIMM16 w)
  | .add => .add (cmdD w) (cmdA w) (cmdB w)
  | .sub => .sub (cmdD w) (cmdA w) (cmdB w)
  | .mul => .mul (cmdD w) (cmdA w) (cmdB w)
  | .divmod => .divmod (cmdD w) (cmdC w) (cmdA w) (cmdB w)
  | .cmp => .cmp (cmdA w) (cmdB w)
  | .shl => .shl (cmdD w) (cmdA w) (cmdIMM8 w)
  | .shr => .shr (cmdD w) (cmdA w) (cmdIMM8 w)
  | .shlv => .shlv (cmdD w) (cmdA w) (cmdB w)
  | .shrv => .shrv (cmdD w) (cmdA w) (cmdB w)
  | .bitlen => .bitlen (cmdD w) (cmdA w)
  | .gcd => .gcd (cmdD w) (cmdA w) (cmdB w)
  | .xgcd => .xgcd (cmdD w) (cmdC w) (cmdE w) (cmdA w) (cmdB w)
  | .modinv => .modinv (cmdD w) (cmdA w) (cmdB w)
  | .mrtest => .mrtest (cmdA w) (cmdIMM8 w)
  | .rand => .rand (cmdD w) (cmdA w)
  | .bsize => .bsize (cmdD w) (cmdA w)
  | .pack => .pack (cmdD w) (cmdA w) (cmdB w) (cmdC w)
  | .unpack => .unpack (cmdA w) (cmdB w) (cmdC w)
  | .marker => .marker (cmdD w) (cmdA w) (cmdB w)
  | .dlen => .dlen (cmdD w) (cmdA w) (cmdB w) (cmdC w)
  | .modmul => .modmul (cmdD w) (cmdA w) (cmdB w) (cmdC w)
  | .modexp => .modexp (cmdD w) (cmdA w) (cmdB w) (cmdC w)

/-- What a command word decodes to: a command, or one of the two decode faults (R98, R99). -/
inductive Decoded where
  | command (i : Instr)
  | illegalOpcode
  | reservedField
  deriving DecidableEq, Repr

/-- The decoder, total on every 32-bit word (R100): OP first, then the reserved fields (R101). -/
def decode (w : Word) : Decoded :=
  match Opcode.ofByte (cmdOP w) with
  | none => .illegalOpcode
  | some o => if o.reservedClear w then .command (o.instr w) else .reservedField

/-- Format R, `OP | D<<8 | A<<12 | B<<16 | C<<20 | IMM8<<24` (R105). Format X is the same sum with E in place of IMM8. The fields
do not overlap, so the sum is the union of their bits. -/
def formatR (op d a b c imm : Nat) : Word :=
  BitVec.ofNat 32 (op + d * 2 ^ 8 + a * 2 ^ 12 + b * 2 ^ 16 + c * 2 ^ 20 + imm * 2 ^ 24)

/-- Format I, `OP | D<<8 | IMM16<<16` (R105). -/
def formatI (op d imm : Nat) : Word :=
  BitVec.ofNat 32 (op + d * 2 ^ 8 + imm * 2 ^ 16)

/-- The encoder (R105): the word of a command, with every unused field 0. -/
def encode (i : Instr) : Word :=
  match i with
  | .mov d a => formatR 0x01 d.val a.val 0 0 0
  | .ldi d imm => formatI 0x02 d.val imm.toNat
  | .add d a b => formatR 0x10 d.val a.val b.val 0 0
  | .sub d a b => formatR 0x11 d.val a.val b.val 0 0
  | .mul d a b => formatR 0x12 d.val a.val b.val 0 0
  | .divmod d c a b => formatR 0x13 d.val a.val b.val c.val 0
  | .cmp a b => formatR 0x20 0 a.val b.val 0 0
  | .shl d a imm => formatR 0x21 d.val a.val 0 0 imm.toNat
  | .shr d a imm => formatR 0x22 d.val a.val 0 0 imm.toNat
  | .shlv d a b => formatR 0x23 d.val a.val b.val 0 0
  | .shrv d a b => formatR 0x24 d.val a.val b.val 0 0
  | .bitlen d a => formatR 0x25 d.val a.val 0 0 0
  | .gcd d a b => formatR 0x30 d.val a.val b.val 0 0
  | .xgcd d c e a b => formatR 0x31 d.val a.val b.val c.val e.val
  | .modinv d a b => formatR 0x32 d.val a.val b.val 0 0
  | .mrtest a imm => formatR 0x38 0 a.val 0 0 imm.toNat
  | .rand d a => formatR 0x39 d.val a.val 0 0 0
  | .bsize d a => formatR 0x40 d.val a.val 0 0 0
  | .pack d a b c => formatR 0x41 d.val a.val b.val c.val 0
  | .unpack a b c => formatR 0x42 0 a.val b.val c.val 0
  | .marker d a b => formatR 0x43 d.val a.val b.val 0 0
  | .dlen d a b c => formatR 0x44 d.val a.val b.val c.val 0
  | .modmul d a b c => formatR 0x50 d.val a.val b.val c.val 0
  | .modexp d a b c => formatR 0x51 d.val a.val b.val c.val 0

/-- The instruction the decoder reads from a table word of `nbits` bits; every row of the table has 32. The bits above `nbits`
are 0, and a command is one word, so the word is handed to `decode` as it stands. -/
def decodeTableWord (nbits w : Nat) : Option Instr :=
  match decode (BitVec.ofNat 32 (w % 2 ^ nbits)) with
  | .command i => some i
  | .illegalOpcode => none
  | .reservedField => none

/-- The command an assembly line stands for (R103). -/
def assemble (l : AsmLine) : Instr :=
  match l with
  | .command i => i
  | .clr d => .ldi d 0
  | .mod d a b => .divmod d d a b
  | .sqrmod d a c => .modmul d a a c
  | .inv d a b => .modinv d a b

/-- `r0` to `r15` (R102). -/
def asmReg (r : Reg) : String := "r" ++ toString r.val

/-- Operands separated by commas (R102). -/
def asmOperands (l : List String) : String := String.intercalate ", " l

/-- The operands of a command in the order of R102: destinations (D, then C, then E), then sources (A, then B, then C), then the
immediate. -/
def Instr.asmOperandList (i : Instr) : List String :=
  match i with
  | .mov d a => [asmReg d, asmReg a]
  | .ldi d imm => [asmReg d, toString imm.toNat]
  | .add d a b => [asmReg d, asmReg a, asmReg b]
  | .sub d a b => [asmReg d, asmReg a, asmReg b]
  | .mul d a b => [asmReg d, asmReg a, asmReg b]
  | .divmod d c a b => [asmReg d, asmReg c, asmReg a, asmReg b]
  | .cmp a b => [asmReg a, asmReg b]
  | .shl d a imm => [asmReg d, asmReg a, toString imm.toNat]
  | .shr d a imm => [asmReg d, asmReg a, toString imm.toNat]
  | .shlv d a b => [asmReg d, asmReg a, asmReg b]
  | .shrv d a b => [asmReg d, asmReg a, asmReg b]
  | .bitlen d a => [asmReg d, asmReg a]
  | .gcd d a b => [asmReg d, asmReg a, asmReg b]
  | .xgcd d c e a b => [asmReg d, asmReg c, asmReg e, asmReg a, asmReg b]
  | .modinv d a b => [asmReg d, asmReg a, asmReg b]
  | .mrtest a imm => [asmReg a, toString imm.toNat]
  | .rand d a => [asmReg d, asmReg a]
  | .bsize d a => [asmReg d, asmReg a]
  | .pack d a b c => [asmReg d, asmReg a, asmReg b, asmReg c]
  | .unpack a b c => [asmReg a, asmReg b, asmReg c]
  | .marker d a b => [asmReg d, asmReg a, asmReg b]
  | .dlen d a b c => [asmReg d, asmReg a, asmReg b, asmReg c]
  | .modmul d a b c => [asmReg d, asmReg a, asmReg b, asmReg c]
  | .modexp d a b c => [asmReg d, asmReg a, asmReg b, asmReg c]

/-- A command written in the assembly syntax of R102. -/
def Instr.asm (i : Instr) : String := i.opcode.mnemonic ++ " " ++ asmOperands i.asmOperandList

end Sys2Proof
end

