-- ==== Sys2Proof/Machine/Flags.lean ====
section
/-! DEFINITION. The flag computations (R34). A command writes only the flags its rule lists, so each of these changes those flags
of the flags it is given and keeps the rest. -/

namespace Sys2Proof.Machine

/-- Z from the command's result (R34). -/
def Flags.withZ (f : Flags) (result : Nat) : Flags := { f with z := decide (result = 0) }

/-- Z and C of ADD from the exact sum: zero of the truncated sum, and carry out (R123). -/
def Flags.ofAdd (f : Flags) (W sum : Nat) : Flags :=
  { f with z := decide (truncW W sum = 0), c := decide (sum ≥ 2 ^ W) }

/-- Z and C of SUB: zero of the exact difference, and borrow (R124). -/
def Flags.ofSub (f : Flags) (a b : Nat) : Flags :=
  { f with z := decide ((a : Int) - (b : Int) = 0), c := decide (a < b) }

/-- Z and V of MUL, SHL and SHLV from the exact product: zero of the truncated product, and loss above bit W-1 (R125, R142,
R144). -/
def Flags.ofLoss (f : Flags) (W p : Nat) : Flags :=
  { f with z := decide (truncW W p = 0), v := decide (p ≥ 2 ^ W) }

/-- LT, EQ and GT of CMP (R141). -/
def Flags.ofCompare (f : Flags) (a b : Nat) : Flags :=
  { f with lt := decide (a < b), eq := decide (a = b), gt := decide (a > b) }

/-- P of MRTEST (R180). -/
def Flags.withP (f : Flags) (accepted : Bool) : Flags := { f with p := accepted }

/-- T of UNPACK: the block had nonzero digits at or above `256**count` (R204). -/
def Flags.ofUnpack (f : Flags) (v count : Nat) : Flags := { f with t := decide (v ≥ 256 ^ count) }

end Sys2Proof.Machine
end

