-- ==== Sys2Proof/Machine/Arith.lean ====
section
/-! DEFINITION. Data movement and integer arithmetic: MOV, LDI, ADD, SUB, MUL, DIVMOD (R120 to R127). Each meaning is the completion
of the command (R282) on the operands of the state. -/

namespace Sys2Proof.Machine

/-- MOV (R121). -/
def execMov (d a : Reg) (s : State) : Host.Outcome State Fault Refusal :=
  complete ((s.setReg d (s.reg a)).setFlags (s.flags.withZ (s.reg a)))

/-- LDI (R122). -/
def execLdi (d : Reg) (imm : BitVec 16) (s : State) : Host.Outcome State Fault Refusal :=
  complete ((s.setReg d (imm16Value imm)).setFlags (s.flags.withZ (imm16Value imm)))

/-- ADD, modulo 2^W (R123). -/
def execAdd (d a b : Reg) (s : State) : Host.Outcome State Fault Refusal :=
  let sum := s.reg a + s.reg b
  complete ((s.setReg d (truncW s.width sum)).setFlags (s.flags.ofAdd s.width sum))

/-- SUB, modulo 2^W (R124). -/
def execSub (d a b : Reg) (s : State) : Host.Outcome State Fault Refusal :=
  let diff : Int := (s.reg a : Int) - (s.reg b : Int)
  complete ((s.setReg d (truncIntW s.width diff)).setFlags (s.flags.ofSub (s.reg a) (s.reg b)))

/-- MUL, low W bits (R125). -/
def execMul (d a b : Reg) (s : State) : Host.Outcome State Fault Refusal :=
  let p := s.reg a * s.reg b
  complete ((s.setReg d (truncW s.width p)).setFlags (s.flags.ofLoss s.width p))

/-- DIVMOD (R126): the quotient is written first and the remainder second, so the remainder is kept if `c = d`. -/
def execDivmod (d c a b : Reg) (s : State) : Host.Outcome State Fault Refusal :=
  if s.reg b = 0 then raiseFault .divZero s
  else
    let q := s.reg a / s.reg b
    let r := s.reg a % s.reg b
    complete (((s.setReg d q).setReg c r).setFlags (s.flags.withZ r))

end Sys2Proof.Machine
end

