-- ==== Sys2Proof/Machine/Codec.lean ====
section
/-! DEFINITION. The block encoder and decoder: BSIZE, PACK, UNPACK, MARKER, DLEN (R200 to R209). -/

namespace Sys2Proof.Machine

/-- BSIZE (R201). -/
def execBsize (d a : Reg) (s : State) : Host.Outcome State Fault Refusal :=
  if s.reg a = 0 then raiseFault .modZero s
  else
    let k := (bitlen (s.reg a) - 1) / 8
    complete ((s.setReg d k).setFlags (s.flags.withZ k))

/-- PACK (R202): BUF_RANGE before MOD_OVF_BLOCK (R203). -/
def execPack (d a b c : Reg) (s : State) : Host.Outcome State Fault Refusal :=
  if s.bufRangeBad (s.reg a) (s.reg b) then raiseFault .bufRange s
  else
    let v := memRead s.buf (s.reg a) (s.reg b)
    if v ≥ s.reg c then raiseFault .modOvfBlock s
    else complete ((s.setReg d v).setFlags (s.flags.withZ v))

/-- UNPACK (R204, R205). -/
def execUnpack (a b c : Reg) (s : State) : Host.Outcome State Fault Refusal :=
  if s.bufRangeBad (s.reg a) (s.reg b) then raiseFault .bufRange s
  else
    complete ((s.setBuf (memWrite s.buf (s.reg a) (s.reg c) (s.reg b))).setFlags (s.flags.ofUnpack (s.reg c) (s.reg b)))

/-- MARKER (R206). -/
def execMarker (d a b : Reg) (s : State) : Host.Outcome State Fault Refusal :=
  if s.reg b = 0 then raiseFault .blkZero s
  else
    let r := s.reg a % s.reg b
    complete ((s.setReg d r).setFlags (s.flags.withZ r))

/-- The exact length of a payload of `m` data blocks with marker `r` and block size `k` (R207). -/
def decodedLength (m r k : Nat) : Nat := if r = 0 then m * k else (m - 1) * k + r

/-- DLEN, with its four faults in order (R207). -/
def execDlen (d a b c : Reg) (s : State) : Host.Outcome State Fault Refusal :=
  let m := s.reg a
  let r := s.reg b
  let k := s.reg c
  if k = 0 then raiseFault .blkZero s
  else if r ≥ k then raiseFault .malformed s
  else if r ≠ 0 ∧ m = 0 then raiseFault .malformed s
  else if decodedLength m r k ≥ 2 ^ s.width then raiseFault .malformed s
  else complete ((s.setReg d (decodedLength m r k)).setFlags (s.flags.withZ (decodedLength m r k)))

end Sys2Proof.Machine
end

