-- ==== Sys2Proof/Machine/CompareShift.lean ====
section
/-! DEFINITION. Comparators and shifters: CMP, SHL, SHR, SHLV, SHRV, BITLEN (R140 to R146). -/

namespace Sys2Proof.Machine

/-- A left shift by any count, with Z and V (R142, R144). -/
def shiftLeftBy (d a : Reg) (count : Nat) (s : State) : Host.Outcome State Fault Refusal :=
  let p := shiftLeftExact s.width (s.reg a) count
  complete ((s.setReg d (truncW s.width p)).setFlags (s.flags.ofLoss s.width p))

/-- A logical right shift by any count, with Z (R143, R145). -/
def shiftRightBy (d a : Reg) (count : Nat) (s : State) : Host.Outcome State Fault Refusal :=
  let r := shiftRight s.width (s.reg a) count
  complete ((s.setReg d r).setFlags (s.flags.withZ r))

/-- CMP (R141). -/
def execCmp (a b : Reg) (s : State) : Host.Outcome State Fault Refusal :=
  complete (s.setFlags (s.flags.ofCompare (s.reg a) (s.reg b)))

/-- SHL: the count is IMM8 (R142). -/
def execShl (d a : Reg) (imm : BitVec 8) (s : State) : Host.Outcome State Fault Refusal :=
  shiftLeftBy d a (imm8Value imm) s

/-- SHR: the count is IMM8 (R143). -/
def execShr (d a : Reg) (imm : BitVec 8) (s : State) : Host.Outcome State Fault Refusal :=
  shiftRightBy d a (imm8Value imm) s

/-- SHLV: the count is the full value of a register (R144). -/
def execShlv (d a b : Reg) (s : State) : Host.Outcome State Fault Refusal :=
  shiftLeftBy d a (s.reg b) s

/-- SHRV: the count is the full value of a register (R145). -/
def execShrv (d a b : Reg) (s : State) : Host.Outcome State Fault Refusal :=
  shiftRightBy d a (s.reg b) s

/-- BITLEN (R146). -/
def execBitlen (d a : Reg) (s : State) : Host.Outcome State Fault Refusal :=
  let r := bitlen (s.reg a)
  complete ((s.setReg d r).setFlags (s.flags.withZ r))

end Sys2Proof.Machine
end

