-- ==== Sys2Proof/Machine/Gcd.lean ====
section
/-! DEFINITION. The extended-GCD unit: GCD, XGCD, MODINV (R160 to R165). Both loops run on fuel; the second operand falls at each
turn, so its starting value is fuel enough. -/

namespace Sys2Proof.Machine

/-- The iterative Euclidean algorithm of R161: while `v != 0`, `(u, v) <- (v, u mod v)`. -/
def euclidLoop : Nat → Nat → Nat → Nat
  | 0, u, _ => u
  | fuel + 1, u, v => if v = 0 then u else euclidLoop fuel v (u % v)

/-- The registers of the extended Euclidean loop (R162). -/
structure Bezout where
  r0 : Nat
  r1 : Nat
  s0 : Int
  s1 : Int
  t0 : Int
  t1 : Int
  deriving DecidableEq, Repr

/-- The start of the extended Euclidean loop on `(a, b)` (R162). -/
def Bezout.start (a b : Nat) : Bezout := { r0 := a, r1 := b, s0 := 1, s1 := 0, t0 := 0, t1 := 1 }

/-- One turn of the loop, with `q = r0 div r1` (R162); `r0 - q*r1` is `r0 mod r1`. -/
def Bezout.turn (x : Bezout) : Bezout :=
  { r0 := x.r1
    r1 := x.r0 - x.r0 / x.r1 * x.r1
    s0 := x.s1
    s1 := x.s0 - (x.r0 / x.r1 : Nat) * x.s1
    t0 := x.t1
    t1 := x.t0 - (x.r0 / x.r1 : Nat) * x.t1 }

/-- The iterative extended Euclid of R162. -/
def bezoutLoop : Nat → Bezout → Bezout
  | 0, x => x
  | fuel + 1, x => if x.r1 = 0 then x else bezoutLoop fuel x.turn

/-- `r0`, `s0`, `t0` of R162 on `(a, b)`. -/
def extendedEuclid (a b : Nat) : Bezout := bezoutLoop b (Bezout.start a b)

/-- GCD (R161). -/
def execGcd (d a b : Reg) (s : State) : Host.Outcome State Fault Refusal :=
  let u := euclidLoop (s.reg b) (s.reg a) (s.reg b)
  complete ((s.setReg d u).setFlags (s.flags.withZ u))

/-- XGCD (R162): g is written first, s second and t third, the coefficients in W-bit two's complement (R163). -/
def execXgcd (d c e a b : Reg) (s : State) : Host.Outcome State Fault Refusal :=
  let x := extendedEuclid (s.reg a) (s.reg b)
  complete ((((s.setReg d x.r0).setReg c (truncIntW s.width x.s0)).setReg e (truncIntW s.width x.t0)).setFlags
    (s.flags.withZ x.r0))

/-- MODINV (R164): MOD_ZERO before NOT_INVERTIBLE, and the floor remainder of the coefficient. -/
def execModinv (d a b : Reg) (s : State) : Host.Outcome State Fault Refusal :=
  if s.reg b = 0 then raiseFault .modZero s
  else
    let x := extendedEuclid (s.reg a) (s.reg b)
    if x.r0 ≠ 1 then raiseFault .notInvertible s
    else
      let v := (x.s0 % (s.reg b : Int)).toNat
      complete ((s.setReg d v).setFlags (s.flags.withZ v))

end Sys2Proof.Machine
end

