-- ==== Sys2Proof/Machine/ModExp.lean ====
section
/-! DEFINITION. Modular multiplication and exponentiation: MODMUL, MODEXP (R230 to R235). -/

namespace Sys2Proof.Machine

/-- MODMUL (R231): the exact product, then the remainder. -/
def execModmul (d a b c : Reg) (s : State) : Host.Outcome State Fault Refusal :=
  if s.reg c = 0 then raiseFault .modZero s
  else
    let v := s.reg a * s.reg b % s.reg c
    complete ((s.setReg d v).setFlags (s.flags.withZ v))

/-- MODEXP (R232). -/
def execModexp (d a b c : Reg) (s : State) : Host.Outcome State Fault Refusal :=
  if s.reg c = 0 then raiseFault .modZero s
  else
    let v := powMod (s.reg a) (s.reg b) (s.reg c)
    complete ((s.setReg d v).setFlags (s.flags.withZ v))

end Sys2Proof.Machine
end

