-- ==== Sys2Proof/Machine/Primality.lean ====
section
/-! DEFINITION. The Miller-Rabin tester and the random source: MRTEST, RAND (R180 to R192). -/

namespace Sys2Proof.Machine

/-- "Strip factors of two" (R183): from `(d, s)`, halves `d` and counts in `s` while `d` is even. -/
def stripTwos : Nat → Nat → Nat → Nat × Nat
  | 0, d, s => (d, s)
  | fuel + 1, d, s => if d % 2 = 0 then stripTwos fuel (d / 2) (s + 1) else (d, s)

/-- The decomposition `c - 1 = d * 2**s` (R183); the bit length of `c - 1` is fuel enough. -/
def decompose (c : Nat) : Nat × Nat := stripTwos (bitlen (c - 1)) (c - 1) 0

/-- The squaring loop of a round, with as many squarings left as the first argument says (R184): 1 rejects, `c - 1` passes, and a
loop that ends with neither fails the round. -/
def squaringLoop (c : Nat) : Nat → Nat → Bool
  | 0, _ => false
  | n + 1, y =>
    let y' := y * y % c
    if y' = 1 then false else if y' = c - 1 then true else squaringLoop c n y'

/-- One round with base `a`, for `c - 1 = d * 2**s` (R184): true when the round passes. -/
def mrRound (c d s a : Nat) : Bool :=
  let y := powMod a d c
  if y = 1 ∨ y = c - 1 then true else squaringLoop c s y

/-- The rounds (R181, R185): each round that starts takes one draw from `{3, ..., c-2}`, and a failed round rejects at once. -/
def mrRounds (c d s : Nat) : Nat → FreeStream → Bool × FreeStream
  | 0, st => (true, st)
  | k + 1, st =>
    let x := draw 3 (c - 4) st
    if mrRound c d s x.1 then mrRounds c d s k x.2 else (false, x.2)

/-- The whole test (R181) with the short-circuits of R182: whether the candidate is accepted, and the random source after it. -/
def millerRabin (c rounds : Nat) (st : FreeStream) : Bool × FreeStream :=
  if c ≤ 1 then (false, st)
  else if c = 4 then (false, st)
  else if c ≤ 3 then (true, st)
  else mrRounds c (decompose c).1 (decompose c).2 rounds st

/-- MRTEST (R181): the result is flag P, and no register is written (R180). -/
def execMrtest (a : Reg) (imm : BitVec 8) (s : State) : Host.Outcome State Fault Refusal :=
  let x := millerRabin (s.reg a) (imm8Value imm) s.draws
  complete ((s.setDraws x.2).setFlags (s.flags.withP x.1))

/-- RAND (R191): a faulting RAND takes no draw. -/
def execRand (d a : Reg) (s : State) : Host.Outcome State Fault Refusal :=
  if s.reg a = 0 then raiseFault .emptyRange s
  else
    let x := draw 0 (s.reg a) s.draws
    complete (((s.setReg d x.1).setDraws x.2).setFlags (s.flags.withZ x.1))

end Sys2Proof.Machine
end

