-- ==== Sys2Proof/Machine/Dispatch.lean ====
section
/-! DEFINITION. The completion of a command, one arm per row of the opcode table (R97, R282). -/

namespace Sys2Proof.Machine

def exec (i : Instr) (s : State) : Host.Outcome State Fault Refusal :=
  match i with
  | .mov d a => Sys2Proof.Machine.execMov d a s
  | .ldi d imm => Sys2Proof.Machine.execLdi d imm s
  | .add d a b => Sys2Proof.Machine.execAdd d a b s
  | .sub d a b => Sys2Proof.Machine.execSub d a b s
  | .mul d a b => Sys2Proof.Machine.execMul d a b s
  | .divmod d c a b => Sys2Proof.Machine.execDivmod d c a b s
  | .cmp a b => Sys2Proof.Machine.execCmp a b s
  | .shl d a imm => Sys2Proof.Machine.execShl d a imm s
  | .shr d a imm => Sys2Proof.Machine.execShr d a imm s
  | .shlv d a b => Sys2Proof.Machine.execShlv d a b s
  | .shrv d a b => Sys2Proof.Machine.execShrv d a b s
  | .bitlen d a => Sys2Proof.Machine.execBitlen d a s
  | .gcd d a b => Sys2Proof.Machine.execGcd d a b s
  | .xgcd d c e a b => Sys2Proof.Machine.execXgcd d c e a b s
  | .modinv d a b => Sys2Proof.Machine.execModinv d a b s
  | .mrtest a imm => Sys2Proof.Machine.execMrtest a imm s
  | .rand d a => Sys2Proof.Machine.execRand d a s
  | .bsize d a => Sys2Proof.Machine.execBsize d a s
  | .pack d a b c => Sys2Proof.Machine.execPack d a b c s
  | .unpack a b c => Sys2Proof.Machine.execUnpack a b c s
  | .marker d a b => Sys2Proof.Machine.execMarker d a b s
  | .dlen d a b c => Sys2Proof.Machine.execDlen d a b c s
  | .modmul d a b c => Sys2Proof.Machine.execModmul d a b c s
  | .modexp d a b c => Sys2Proof.Machine.execModexp d a b c s

end Sys2Proof.Machine
end

