-- ==== Sys2Proof/Machine/Engine.lean ====
section
/-! DEFINITION. The engine's own step (R17, R281, R282, R312): the completion of the accepted command, or the zeroisation. -/

namespace Sys2Proof.Machine

/-- The completion of the word in the latch: a decode fault (R98, R99), or the command it decodes to (R101, R281). -/
def completeLatched (s : State) : Host.Outcome State Fault Refusal :=
  match decode s.latch with
  | .command i => exec i s
  | .illegalOpcode => raiseFault .illegalOpcode s
  | .reservedField => raiseFault .reservedField s

/-- The engine's step in each phase (R17). While idle it waits for a CMD write and changes nothing (R314). -/
def engineStep (s : State) : Host.Outcome State Fault Refusal :=
  match s.phase with
  | .idle => .next s
  | .exec => completeLatched s
  | .zeroise => .next s.zeroiseAll

/-- The acceptance of a command word from the host (R30, R280), with the engine's completion as the very next move. It stands for the
host's write of the word to CMD (log entry 8). -/
def State.loadCommand (s : State) (w : Word) : State :=
  { s.accept w with schedule := .engine :: s.schedule }

end Sys2Proof.Machine
end

