-- ==== Sys2Proof/WellFormed.lean ====
section
/-! DEFINITION. What makes the engine's parameters and the host's budgets legal (R8). A command needs no check of its own: its register fields are `Fin 16`
and its immediates `BitVec 8` and `BitVec 16` (R93, R94), so every term of `Instr` is a command of R97. -/

namespace Sys2Proof

/-- `W` is "a multiple of 32 with 64 <= W <= 8192" (R8). -/
abbrev Config.WidthLegal (c : Config) : Prop :=
  c.width % 32 = 0 ∧ 64 ≤ c.width ∧ c.width ≤ 8192

/-- `BUFSZ` is "a power of two with 256 <= BUFSZ <= 32768" (R8). -/
abbrev Config.BufSizeLegal (c : Config) : Prop :=
  2 ^ Nat.log2 c.bufSize = c.bufSize ∧ 256 ≤ c.bufSize ∧ c.bufSize ≤ 32768

/-- `BASE` is "any 64 KiB-aligned address" (R8). -/
abbrev Config.BaseLegal (c : Config) : Prop :=
  c.base % 0x10000 = 0

/-- MAX_DRAWS and MAX_ATTEMPTS, the host's budgets of key generation, are each "any positive integer" (R8). -/
abbrev BudgetsLegal (maxDraws maxAttempts : Nat) : Prop :=
  1 ≤ maxDraws ∧ 1 ≤ maxAttempts

/-- Every parameter of the engine is in its legal range (R8). -/
abbrev Config.Legal (c : Config) : Prop :=
  c.WidthLegal ∧ c.BufSizeLegal ∧ c.BaseLegal

end Sys2Proof
end

