-- ==== Sys2Proof/Machine/Step.lean ====
section
/-! DEFINITION. One step of the machine: one move of one agent (R17). -/

namespace Sys2Proof.Machine

/-- One move of one agent, the next of the schedule. With no move left, the engine moves: so an accepted command completes
(R19). -/
def move (s : State) : Host.Outcome State Fault Refusal :=
  match s.schedule with
  | [] => engineStep s
  | .engine :: rest => engineStep { s with schedule := rest }
  | .read width addr :: rest => busRead width addr { s with schedule := rest }
  | .write width addr lanes :: rest => busWrite width addr lanes { s with schedule := rest }
  | .hardReset :: rest => .next { s with schedule := rest }.resetEntry

/-- One step. The parameters are checked first (R8). -/
def step (s : State) : Host.Outcome State Fault Refusal :=
  if s.config.Legal then move s else .refused .illegalConfig

/-- The state in which the very next step runs the command word `w`: the engine has accepted it (R280) and its completion is the next
move. The engine fetches nothing (R22), so there is no place in memory to store the word. -/
def State.withFetchWord (s : State) (nbits w : Nat) : State := s.loadCommand (BitVec.ofNat 32 (w % 2 ^ nbits))

end Sys2Proof.Machine
end

