-- ==== Sys2Proof/Machine/Procedures.lean ====
section
/-! DEFINITION. The host's side of the spec: host actions over the window (R104, R316), the reference functions of the sequence codec
and of encrypt and decrypt (R252 to R256), and the host procedures that boot the engine (R315) and compute these functions, and keys, on
it (R250 to R264). A procedure is a function of the machine's state that drives `step`. -/

namespace Sys2Proof.Machine

/-! ### Reference functions -/

/-- The number of data blocks of a payload of `L` bytes, `ceil(L / k)` (R252). -/
def chunkCount (L k : Nat) : Nat := (L + k - 1) / k

/-- The length of chunk `j`, `min(k, L - j*k)` (R252). -/
def chunkLength (L k j : Nat) : Nat := min k (L - j * k)

/-- The value of a run of bytes, the first one lowest (R252). -/
def bytesValue : List Byte → Nat
  | [] => 0
  | b :: rest => b.toNat + 256 * bytesValue rest

/-- The low `n` base-256 digits of a block, the lowest first (R253). -/
def valueBytes (v : Nat) : Nat → List Byte
  | 0 => []
  | n + 1 => BitVec.ofNat 8 (v % 256) :: valueBytes (v / 256) n

/-- `encode(bytes, k)`: the chunk values and then the marker (R252). -/
def encodeBlocks (bytes : List Byte) (k : Nat) : List Nat :=
  (List.range (chunkCount bytes.length k)).map
      (fun j => bytesValue ((bytes.drop (j * k)).take (chunkLength bytes.length k j))) ++
    [bytes.length % k]

/-- What the host reads after a command that faulted (R316): ERRCODE and ERRCMD. -/
structure FaultRecord where
  code : Word
  command : Word
  deriving DecidableEq, Repr

/-- The errors a procedure reports (R259). The malformed ciphertext of a text parser and the undetected wrong key are not among them:
the first happens before any command (R256), the second is no error (R259). -/
inductive ProcError where
  /-- InvalidExponent: the attempts are exhausted (R263) -/
  | invalidExponent
  /-- PrimeSearchExhausted: the draws of an attempt are exhausted in the prime search (R262) -/
  | primeSearchExhausted
  /-- ModulusOverflowBlock: PACK faults MOD_OVF_BLOCK, or `n < 256` makes MARKER or DLEN fault BLK_ZERO (R255, R259, R284, D34) -/
  | modulusOverflowBlock
  /-- MalformedBlocks: no marker, or a fault of DLEN (R253) -/
  | malformedBlocks
  /-- MAX_DRAWS or MAX_ATTEMPTS is outside its legal range (R8) -/
  | illegalBudget
  /-- `2 * bitLength` exceeds W (R260) -/
  | keyTooLarge
  /-- the payload needs segments, and not even one chunk fits in BUF (R252) -/
  | payloadTooLong
  /-- another command fault, with its record (R251, R316) -/
  | commandFault (record : FaultRecord)
  /-- the host waits for IRQ, and the completion does not raise it because IE = 0 (R316) -/
  | noInterrupt
  /-- the boot check of ID and PARAM fails (R315) -/
  | engineMismatch
  /-- the access was refused by the bus, or the machine stopped -/
  | stopped
  deriving DecidableEq, Repr

/-- `decode(blocks, k)` (R253): `blocks` ends in the marker. -/
def decodeBlocks (blocks : List Nat) (k : Nat) : Except ProcError (List Byte) :=
  match blocks.getLast? with
  | none => .error .malformedBlocks
  | some r =>
    let data := blocks.dropLast
    if k = 0 ∨ r ≥ k ∨ (r ≠ 0 ∧ data.length = 0) then .error .malformedBlocks
    else
      let L := if r = 0 then data.length * k else (data.length - 1) * k + r
      .ok (data.mapIdx (fun j b => valueBytes b (chunkLength L k j))).flatten

/-- `floor((bitlen(n) - 1) / 8)`, the block size of a modulus (R200). -/
def blockSize (n : Nat) : Nat := (bitlen n - 1) / 8

/-- `encrypt(bytes, (e, n))` (R255): every element is exponentiated, the marker included. DESIGN CHOICE for `n = 0`, where the block size
has no meaning: ModulusOverflowBlock, R255's words for every modulus below 256 (log entry 18). -/
def encryptBlocks (bytes : List Byte) (e n : Nat) : Except ProcError (List Nat) :=
  if blockSize n = 0 then .error .modulusOverflowBlock
  else .ok ((encodeBlocks bytes (blockSize n)).map (fun b => b ^ e % n))

/-- `decrypt(values, (d, n))` (R256). A sequence that has a marker and a modulus below 256, whose block size is 0, is the
ModulusOverflowBlock of D34 and R284 (log entry 17). DESIGN CHOICE for `n = 0`: the same error (log entry 18). -/
def decryptBlocks (values : List Nat) (d n : Nat) : Except ProcError (List Byte) :=
  if blockSize n = 0 ∧ values ≠ [] then .error .modulusOverflowBlock
  else decodeBlocks (values.map (fun c => c ^ d % n)) (blockSize n)

/-! ### Host actions -/

/-- One move of one agent on the machine. -/
def perform (m : Move) (s : State) : Except ProcError State :=
  match step { s with schedule := [m] } with
  | .next t => .ok t
  | .fault _ => .error .stopped
  | .refused _ => .error .stopped

/-- The data bus of a host write of `v` at a window offset: the byte lanes of the access carry `v` (R70). DESIGN CHOICE: the host drives
0 on the other lanes, which the engine does not read (log entry 13). -/
def laneWord (offset : Nat) (v : Word) : Word := v <<< (8 * (offset % 4))

/-- A host write at a window offset; an error response ends the procedure. -/
def hostStore (width : Width) (offset : Nat) (v : Word) (s : State) : Except ProcError State := do
  let t ← perform (.write width (s.config.base + offset) (laneWord offset v)) s
  match t.response with
  | some .written => .ok t
  | some (.data _) => .error .stopped
  | some .error => .error .stopped
  | none => .error .stopped

/-- A host read at a window offset: the value on the byte lanes of the access. An error response ends the procedure. -/
def hostLoad (width : Width) (offset : Nat) (s : State) : Except ProcError (Word × State) := do
  let t ← perform (.read width (s.config.base + offset)) s
  match t.response with
  | some (.data lanes) => .ok (laneValue width offset lanes, t)
  | some .written => .error .stopped
  | some .error => .error .stopped
  | none => .error .stopped

/-- The words `0 .. n-1` of `host.wreg` (R104). DESIGN CHOICE: the low word first; R104 fixes no order (log entry 13). -/
def hostStoreWords (r : Reg) (v : Nat) : Nat → State → Except ProcError State
  | 0, s => .ok s
  | n + 1, s => do
    let t ← hostStoreWords r v n s
    hostStore .word (0x4000 + 0x400 * r.val + 4 * n) (BitVec.ofNat 32 (wordOf v n)) t

/-- `host.wreg ri, v`: `W/32` word writes (R104). -/
def hostWriteReg (r : Reg) (v : Nat) (s : State) : Except ProcError State :=
  hostStoreWords r v (s.width / 32) s

/-- The words `0 .. n-1` of `host.rreg` (R104). DESIGN CHOICE: the low word first; R104 fixes no order (log entry 13). -/
def hostLoadWords (r : Reg) : Nat → State → Except ProcError (Nat × State)
  | 0, s => .ok (0, s)
  | n + 1, s => do
    let (low, t) ← hostLoadWords r n s
    let (w, u) ← hostLoad .word (0x4000 + 0x400 * r.val + 4 * n) t
    .ok (low + w.toNat * 2 ^ (32 * n), u)

/-- `host.rreg ri` (R104). -/
def hostReadReg (r : Reg) (s : State) : Except ProcError (Nat × State) :=
  hostLoadWords r (s.width / 32) s

/-- `host.wbuf o, [b0, b1, ...]` (R104). DESIGN CHOICE: 8-bit writes in rising order; R104 fixes neither the width, 8, 16 or 32 bits by
R66, nor the order (log entry 13). -/
def hostWriteBuf (o : Nat) (bytes : List Byte) (s : State) : Except ProcError State :=
  match bytes with
  | [] => .ok s
  | b :: rest => do
    let t ← hostStore .byte (0x8000 + o) (BitVec.ofNat 32 b.toNat) s
    hostWriteBuf (o + 1) rest t

/-- `host.rbuf o, n` (R104). DESIGN CHOICE: 8-bit reads in rising order; R104 fixes neither the width, 8, 16 or 32 bits by R66, nor
the order (log entry 13). -/
def hostReadBuf (o : Nat) : Nat → State → Except ProcError (List Byte × State)
  | 0, s => .ok ([], s)
  | n + 1, s => do
    let (b, t) ← hostLoad .byte (0x8000 + o) s
    let (rest, u) ← hostReadBuf (o + 1) n t
    .ok (BitVec.ofNat 8 b.toNat :: rest, u)

/-- How the host waits for a completion (R316): it polls STATUS, and finds BUSY = 1 at most `early` times before the completion, or it
takes IRQ. -/
inductive Wait where
  | poll (early : Nat)
  | interrupt
  deriving DecidableEq, Repr

/-- Polls of STATUS that come before the completion: they go on while BUSY = 1. -/
def pollBusy : Nat → State → Except ProcError State
  | 0, s => .ok s
  | early + 1, s => do
    let (status, t) ← hostLoad .word 0x008 s
    if status.getLsbD 0 then pollBusy early t else .ok t

/-- The wait for the completion of an accepted command. -/
def awaitCompletion (wait : Wait) (s : State) : Except ProcError State :=
  match wait with
  | .poll early => do
    let t ← pollBusy early s
    perform .engine t
  | .interrupt => do
    let t ← perform .engine s
    if t.irq then .ok t else .error .noInterrupt

/-- The outcome of a completed command (R316): read STATUS, and with ERR = 1 read ERRCODE and ERRCMD. -/
def hostOutcome (s : State) : Except ProcError (Option FaultRecord × State) := do
  let (status, t) ← hostLoad .word 0x008 s
  if status.getLsbD 0 then .error .stopped
  else if status.getLsbD 2 then do
    let (code, u) ← hostLoad .word 0x010 t
    let (command, v) ← hostLoad .word 0x01C u
    .ok (some { code := code, command := command }, v)
  else .ok (none, t)

/-- The per-command protocol (R104, R316): write CMD, wait, and read the outcome. -/
def hostCommand (wait : Wait) (w : Word) (s : State) : Except ProcError (Option FaultRecord × State) := do
  let t ← hostStore .word 0x00C w s
  let u ← awaitCompletion wait t
  hostOutcome u

/-- Lowers IRQ by writing 1 to DONE (R316). -/
def hostAcknowledge (s : State) : Except ProcError State := hostStore .word 0x008 0x00000002 s

/-- Chooses interrupts, IE = 1, or polling, IE = 0, which also lowers IRQ (R315, R316). -/
def hostEnableInterrupt (enable : Bool) (s : State) : Except ProcError State :=
  hostStore .word 0x004 (if enable then 0x00000001 else 0x00000000) s

/-- `cmd(...)` of the host procedures: `host.cmd` of the encoding, and the procedure stops with the fault if the command faults
(R251). The result never depends on when the host polls (R323), so the completion comes before the first poll. -/
def hostCmd (i : Instr) (s : State) : Except ProcError State := do
  let (record, t) ← hostCommand (.poll 0) (encode i) s
  match record with
  | none => .ok t
  | some r => .error (.commandFault r)

/-- A flag of FLAGS as the host reads it after a command (R316). -/
def hostFlag (bit : Nat) (s : State) : Except ProcError (Bool × State) := do
  let (w, t) ← hostLoad .word 0x018 s
  .ok (w.getLsbD bit, t)

/-- Renames the faults of a procedure to the source's error kinds (R259). -/
def renameFault (codes : List Word) (e : ProcError) (x : Except ProcError α) : Except ProcError α :=
  match x with
  | .ok v => .ok v
  | .error (.commandFault r) => if codes.contains r.code then .error e else .error (.commandFault r)
  | .error other => .error other

/-- The boot sequence (R315), steps 1 to 4: wait for the zeroisation to end, check ID, and PARAM against the width and the buffer size the
host needs, clear stale status, and choose interrupts or polling. -/
def bootEngine (minWidth minBufSize : Nat) (interrupts : Bool) (s : State) : Except ProcError State := do
  let s ← perform .engine s
  let (status, s) ← hostLoad .word 0x008 s
  if status.getLsbD 0 then .error .stopped
  else do
    let (id, s) ← hostLoad .word 0x000 s
    let (param, s) ← hostLoad .word 0x014 s
    if id ≠ 0x52534101 ∨ param.toNat % 2 ^ 16 < minWidth ∨ param.toNat / 2 ^ 16 < minBufSize then .error .engineMismatch
    else do
      let s ← hostStore .word 0x008 0x0000000E s
      if interrupts then hostEnableInterrupt true s else .ok s

/-! ### The sequence codec on the engine

Registers, as in the spec's programs: r1 = n, r2 = the exponent, r3 = k, r4 = offset, r5 = chunk length, r6 = block, r7 = its power,
r8 = L or m, r9 = marker, r12 = decoded length. -/

/-- Packs chunks `j .. j+count-1` of a segment of `L` bytes that lies in `BUF[0 .. L)` (R252). -/
def packChunks (L k j : Nat) : Nat → State → Except ProcError (List Nat × State)
  | 0, s => .ok ([], s)
  | count + 1, s => do
    let s ← hostWriteReg 4 (j * k) s
    let s ← hostWriteReg 5 (chunkLength L k j) s
    let s ← hostCmd (.pack 6 4 5 1) s
    let (b, s) ← hostReadReg 6 s
    let (rest, s) ← packChunks L k (j + 1) count s
    .ok (b :: rest, s)

/-- The bytes of one segment: the whole payload where it fits in BUF, else a whole number of chunks (R252). DESIGN CHOICE: the
most chunks that fit, `BUFSZ div k`; the spec asks only for a whole number (log entry 16). -/
def segmentLength (size L k : Nat) : Nat := if L ≤ size then L else size / k * k

/-- The data blocks of a payload, segment by segment, each packed at offset 0 after a refill of BUF (R252). -/
def packSegments (k : Nat) : Nat → List Byte → State → Except ProcError (List Nat × State)
  | 0, _, s => .ok ([], s)
  | fuel + 1, bytes, s =>
    if bytes.isEmpty then .ok ([], s)
    else
      let n := segmentLength s.config.bufSize bytes.length k
      if n = 0 then .error .payloadTooLong
      else do
        let s ← hostWriteBuf 0 (bytes.take n) s
        let (blocks, s) ← packChunks n k 0 (chunkCount n k) s
        let (rest, s) ← packSegments k fuel (bytes.drop n) s
        .ok (blocks ++ rest, s)

/-- `encode(bytes, k)` on the engine, with `n` in r1 (R252): the data blocks, each checked below `n` by PACK, and the marker. With
`k = 0` no chunk exists and MARKER faults BLK_ZERO (R255). -/
def encodeOnEngine (bytes : List Byte) (k : Nat) (s : State) : Except ProcError (List Nat × State) :=
  renameFault [0x06, 0x08] .modulusOverflowBlock do
    let s ← hostWriteReg 3 k s
    let (blocks, s) ← if k = 0 then .ok ([], s) else packSegments k bytes.length bytes s
    let s ← hostWriteReg 8 bytes.length s
    let s ← hostCmd (.marker 9 8 3) s
    let (r, s) ← hostReadReg 9 s
    .ok (blocks ++ [r], s)

/-- Unpacks the data blocks from block `j` on into BUF, for a payload of `L` bytes (R253). -/
def unpackBlocks (L k j : Nat) (blocks : List Nat) (s : State) : Except ProcError State :=
  match blocks with
  | [] => .ok s
  | b :: rest => do
    let s ← hostWriteReg 4 (j * k) s
    let s ← hostWriteReg 5 (chunkLength L k j) s
    let s ← hostWriteReg 6 b s
    let s ← hostCmd (.unpack 4 5 6) s
    unpackBlocks L k (j + 1) rest s

/-- The commands of `decode(blocks, k)` (R253), which stop with the fault of DLEN. A sequence with no marker fails before any
command. -/
def decodeCommands (blocks : List Nat) (k : Nat) (s : State) : Except ProcError (List Byte × State) :=
  match blocks.getLast? with
  | none => .error .malformedBlocks
  | some r => do
    let s ← hostWriteReg 3 k s
    let s ← hostWriteReg 8 blocks.dropLast.length s
    let s ← hostWriteReg 9 r s
    let s ← hostCmd (.dlen 12 8 9 3) s
    let (L, s) ← hostReadReg 12 s
    let s ← unpackBlocks L k 0 blocks.dropLast s
    hostReadBuf 0 L s

/-- `decode(blocks, k)` on the engine: both faults of DLEN are MalformedBlocks (R253). -/
def decodeOnEngine (blocks : List Nat) (k : Nat) (s : State) : Except ProcError (List Byte × State) :=
  renameFault [0x08, 0x09] .malformedBlocks (decodeCommands blocks k s)

/-! ### Encrypt and decrypt on the engine -/

/-- Raises each value to the exponent in r2 modulo r1 (R235, R255, R256). -/
def powerBlocks (values : List Nat) (s : State) : Except ProcError (List Nat × State) :=
  match values with
  | [] => .ok ([], s)
  | b :: rest => do
    let s ← hostWriteReg 6 b s
    let s ← hostCmd (.modexp 7 6 2 1) s
    let (c, s) ← hostReadReg 7 s
    let (cs, s) ← powerBlocks rest s
    .ok (c :: cs, s)

/-- Loads an exponent and a modulus and derives the block size (R255, R256). DESIGN CHOICE for `n = 0`: the procedure stops with the
fault MOD_ZERO of BSIZE (R201, R251), and R255's report for a modulus below 256 is left to `0 < n` (log entry 18). -/
def loadKey (exponent n : Nat) (s : State) : Except ProcError (Nat × State) := do
  let s ← hostWriteReg 1 n s
  let s ← hostWriteReg 2 exponent s
  let s ← hostCmd (.bsize 3 1) s
  hostReadReg 3 s

/-- `encrypt(bytes, (e, n))` on the engine (R255). For `n = 0` it stops at BSIZE (log entry 18). -/
def encryptOnEngine (bytes : List Byte) (e n : Nat) (s : State) : Except ProcError (List Nat × State) := do
  let (k, s) ← loadKey e n s
  let (blocks, s) ← encodeOnEngine bytes k s
  powerBlocks blocks s

/-- `decrypt(values, (d, n))` on the engine (R256). The block size comes from `n`, so BLK_ZERO of DLEN is the ModulusOverflowBlock of
`n < 256` (D34, R284), and MALFORMED is MalformedBlocks (R253). R253 alone would name both MalformedBlocks (log entry 17). For `n = 0`
it stops at BSIZE (log entry 18). -/
def decryptOnEngine (values : List Nat) (d n : Nat) (s : State) : Except ProcError (List Byte × State) := do
  let (k, s) ← loadKey d n s
  let (blocks, s) ← powerBlocks values s
  renameFault [0x08] .modulusOverflowBlock (renameFault [0x09] .malformedBlocks (decodeCommands blocks k s))

/-! ### Key generation on the engine

Registers, as in the spec's program P7: r1 = 1, r2 = 2**bitLength, r3 = 2, r4 = e, r5 and r6 = quotient and remainder, r7 = p, r8 = q,
r10 = p - 1, r11 = q - 1, r12 = φ(n), r13 = n, r14 = d. -/

/-- KeyMaterial (R250). -/
structure KeyMaterial where
  n : Nat
  e : Nat
  d : Nat
  deriving DecidableEq, Repr

/-- Step 1 (R261): draws `e` until it is odd, and answers the draws left, or `none` when the budget is exhausted. -/
def drawExponent : Nat → State → Except ProcError (Option Nat × State)
  | 0, s => .ok (none, s)
  | draws + 1, s => do
    let s ← hostCmd (.rand 4 2) s
    let s ← hostCmd (.divmod 5 6 4 3) s
    let (even, s) ← hostFlag 0 s
    if even then drawExponent draws s else .ok (some draws, s)

/-- Step 2 (R262): with `p` not found yet, draws a candidate for r7; with `p` found, one for r8, which must also differ from `p`. When
both are found and `(p-1)(q-1)` does not exceed `e`, the dual search starts again. -/
def searchPrimes : Nat → Bool → State → Except ProcError State
  | 0, _, _ => .error .primeSearchExhausted
  | draws + 1, false, s => do
    let s ← hostCmd (.rand 7 4) s
    let s ← hostCmd (.mrtest 7 (BitVec.ofNat 8 Config.keygenRounds)) s
    let (prime, s) ← hostFlag 6 s
    searchPrimes draws prime s
  | draws + 1, true, s => do
    let s ← hostCmd (.rand 8 4) s
    let s ← hostCmd (.mrtest 8 (BitVec.ofNat 8 Config.keygenRounds)) s
    let (prime, s) ← hostFlag 6 s
    if prime then do
      let s ← hostCmd (.cmp 8 7) s
      let (same, s) ← hostFlag 4 s
      if same then searchPrimes draws true s
      else do
        let s ← hostCmd (.sub 10 7 1) s
        let s ← hostCmd (.sub 11 8 1) s
        let s ← hostCmd (.mul 12 10 11) s
        let s ← hostCmd (.cmp 12 4) s
        let (exceeds, s) ← hostFlag 5 s
        if exceeds then .ok s else searchPrimes draws false s
    else searchPrimes draws true s

/-- Step 4 (R263): whether MODINV gave the private exponent. NOT_INVERTIBLE is a restart, any other fault stops the procedure. -/
def deriveExponent (s : State) : Except ProcError (Bool × State) := do
  let (record, t) ← hostCommand (.poll 0) (encode (.modinv 14 4 12)) s
  match record with
  | none => .ok (true, t)
  | some r => if r.code = 0x05 then .ok (false, t) else .error (.commandFault r)

/-- The attempts left (R263): an attempt whose `e` draws are exhausted, or whose `e` is not invertible, is one attempt, and the next
starts at step 1 with a fresh budget of draws. -/
def attemptKeys (maxDraws : Nat) : Nat → State → Except ProcError (KeyMaterial × State)
  | 0, _ => .error .invalidExponent
  | attempts + 1, s => do
    let (left, s) ← drawExponent maxDraws s
    match left with
    | none => attemptKeys maxDraws attempts s
    | some draws => do
      let s ← searchPrimes draws false s
      let s ← hostCmd (.mul 13 7 8) s
      let (ok, s) ← deriveExponent s
      if ok then do
        let (n, s) ← hostReadReg 13 s
        let (e, s) ← hostReadReg 4 s
        let (d, s) ← hostReadReg 14 s
        .ok ({ n := n, e := e, d := d }, s)
      else attemptKeys maxDraws attempts s

/-- `generate(bitLength)` on the engine (R260 to R264), with the host's budgets MAX_DRAWS and MAX_ATTEMPTS, whose ranges are checked
first (R8). The bound 2**bitLength is loaded by LDI and SHLV (R191). -/
def generateOnEngine (bitLength maxDraws maxAttempts : Nat) (s : State) : Except ProcError (KeyMaterial × State) :=
  if ¬ BudgetsLegal maxDraws maxAttempts then .error .illegalBudget
  else if 2 * bitLength > s.width then .error .keyTooLarge
  else do
    let s ← hostCmd (.ldi 1 1) s
    let s ← hostCmd (.ldi 3 2) s
    let s ← hostWriteReg 6 bitLength s
    let s ← hostCmd (.shlv 2 1 6) s
    attemptKeys maxDraws maxAttempts s

end Sys2Proof.Machine
end

