-- ==== Sys2Proof/Safety.lean ====
section
/-! DEFINITION. The terms in which claims about the engine are stated: what a completed command and a faulted command leave, what a
command may write, and the invariant of the engine's reachable states. -/

namespace Sys2Proof.Machine

/-! ### Frames -/

/-- Every big register but those listed keeps its value. -/
def RegsKeptExcept (ds : List Reg) (s t : State) : Prop := ∀ r, r ∉ ds → t.reg r = s.reg r

/-- Every byte of BUF reads as before. -/
def BufKept (s t : State) : Prop := ∀ o, t.buf.read o = s.buf.read o

/-- Every byte of BUF outside `[o, o + n)` reads as before. -/
def BufKeptOutside (o n : Nat) (s t : State) : Prop := ∀ a, a < o ∨ o + n ≤ a → t.buf.read a = s.buf.read a

/-- The state that no command and no completion writes: the parameters, CTRL.IE, STATUS.OVR, the latch, and the model's own fields
other than the random source's stream. -/
structure ControlKept (s t : State) : Prop where
  config : t.config = s.config
  ie : t.ie = s.ie
  ovr : t.ovr = s.ovr
  latch : t.latch = s.latch
  busyReads : t.busyReads = s.busyReads
  schedule : t.schedule = s.schedule
  response : t.response = s.response

/-- A completion without fault (R282): DONE is set, the engine is idle, and the fault record and every other control field are as
before. What the command writes to registers, BUF, flags and the random source is not said here. -/
structure Completed (s t : State) : Prop extends ControlKept s t where
  done : t.done = true
  idle : t.phase = .idle
  err : t.err = s.err
  errcode : t.errcode = s.errcode
  errcmd : t.errcmd = s.errcmd

/-- A completion with a fault (R282, R283): the record, DONE, and no other effect. -/
structure Faulted (code : FaultCode) (s t : State) : Prop extends ControlKept s t where
  done : t.done = true
  idle : t.phase = .idle
  err : t.err = true
  errcode : t.errcode = code.byte
  errcmd : t.errcmd = s.latch
  regs : ∀ r, t.reg r = s.reg r
  buf : BufKept s t
  flags : t.flags = s.flags
  draws : t.draws = s.draws

/-! ### What the spec's tables list -/

/-- The words of a row: OP is `op`, and the word decodes to the row's command exactly when the bits of `zeros` are 0; with another
value there it has the decode fault RESERVED_FIELD (R95, R97, R99). -/
def RowDecodes (op : Nat) (zeros : List (Nat × Nat)) (mk : Word → Instr) : Prop :=
  ∀ w, cmdOP w = op →
    decode w = if (∀ r ∈ zeros, bits w.toNat r.1 r.2 = 0) then .command (mk w) else .reservedField

/-- The unassigned OP values, as R98 lists them. -/
def UnassignedOpcode (op : Nat) : Prop :=
  op = 0x00 ∨ (0x03 ≤ op ∧ op ≤ 0x0F) ∨ (0x14 ≤ op ∧ op ≤ 0x1F) ∨ (0x26 ≤ op ∧ op ≤ 0x2F) ∨ (0x33 ≤ op ∧ op ≤ 0x37) ∨
    (0x3A ≤ op ∧ op ≤ 0x3F) ∨ (0x45 ≤ op ∧ op ≤ 0x4F) ∨ (0x52 ≤ op ∧ op ≤ 0xFF)

/-- The faults each command can raise after its decode checks (R285). -/
def ownFaults : Opcode → List FaultCode
  | .mov | .ldi | .add | .sub | .mul => []
  | .divmod => [.divZero]
  | .cmp | .shl | .shr | .shlv | .shrv | .bitlen => []
  | .gcd | .xgcd => []
  | .modinv => [.modZero, .notInvertible]
  | .mrtest => []
  | .rand => [.emptyRange]
  | .bsize => [.modZero]
  | .pack => [.bufRange, .modOvfBlock]
  | .unpack => [.bufRange]
  | .marker => [.blkZero]
  | .dlen => [.blkZero, .malformed]
  | .modmul | .modexp => [.modZero]

/-- The commands R34 lists as writers of Z; DIVMOD writes it with the remainder. -/
def writesZ : Opcode → Bool
  | .mov | .ldi | .add | .sub | .mul | .shl | .shr | .shlv | .shrv | .bitlen => true
  | .modmul | .modexp | .gcd | .xgcd | .modinv | .rand | .bsize | .pack | .marker | .dlen | .divmod => true
  | .cmp | .mrtest | .unpack => false

/-- A command of row `o` changes only the flags that R34 lists for it. -/
structure FlagsWrittenAsListed (o : Opcode) (f g : Flags) : Prop where
  z : writesZ o = false → g.z = f.z
  c : o ∉ [Opcode.add, .sub] → g.c = f.c
  v : o ∉ [Opcode.mul, .shl, .shlv] → g.v = f.v
  compare : o ≠ .cmp → g.lt = f.lt ∧ g.eq = f.eq ∧ g.gt = f.gt
  p : o ≠ .mrtest → g.p = f.p
  t : o ≠ .unpack → g.t = f.t

/-- The flags that R34 lists for a command of row `o` are the same in two flag values. -/
structure ListedFlagsAgree (o : Opcode) (g h : Flags) : Prop where
  z : writesZ o = true → g.z = h.z
  c : o ∈ [Opcode.add, .sub] → g.c = h.c
  v : o ∈ [Opcode.mul, .shl, .shlv] → g.v = h.v
  compare : o = .cmp → g.lt = h.lt ∧ g.eq = h.eq ∧ g.gt = h.gt
  p : o = .mrtest → g.p = h.p
  t : o = .unpack → g.t = h.t

/-! ### Free values -/

/-- The stream after `n` values were taken. -/
def FreeStream.advance (st : FreeStream) (n : Nat) : FreeStream :=
  { supplied := st.supplied.drop n, taken := st.taken + n }

/-- The `n`-th value the stream will give (from 0). -/
def FreeStream.nth (free : Nat → Nat) (st : FreeStream) (n : Nat) : Nat :=
  match st.supplied[n]? with
  | some v => v
  | none => free (st.taken + n)

/-- The `n`-th base a run of MRTEST on `c` draws (R185). -/
def mrBase (c : Nat) (st : FreeStream) (n : Nat) : Nat := elementOf 3 (c - 4) (st.nth Config.freeDraw n)

/-- The round of R184 passes for base `a`: with `c - 1 = d * 2**s` and `d` odd, `a**d` is 1 or `c - 1`, or one of the `s` squarings
gives `c - 1`, all modulo `c`. -/
def RoundPasses (c a : Nat) : Prop :=
  ∃ d s, d % 2 = 1 ∧ d * 2 ^ s = c - 1 ∧ (a ^ d % c = 1 ∨ ∃ j ≤ s, a ^ (d * 2 ^ j) % c = c - 1)

/-- The while loop of R162 from the six values `(r0, r1)`, `(s0, s1)`, `(t0, t1)` to its result `(g, s, t)`. -/
inductive EuclidRun : Nat → Nat → Int → Int → Int → Int → Nat → Int → Int → Prop where
  | stop (r0 : Nat) (s0 s1 t0 t1 : Int) : EuclidRun r0 0 s0 s1 t0 t1 r0 s0 t0
  | turn (r0 r1 : Nat) (s0 s1 t0 t1 : Int) (g : Nat) (s t : Int) (h : r1 ≠ 0)
      (rest : EuclidRun r1 (r0 % r1) s1 (s0 - (r0 / r1 : Nat) * s1) t1 (t0 - (r0 / r1 : Nat) * t1) g s t) :
      EuclidRun r0 r1 s0 s1 t0 t1 g s t

/-! ### The invariant -/

/-- Every register value is in `[0, 2^W)` (R20). -/
def RegsInRange (s : State) : Prop := ∀ r, s.reg r < 2 ^ s.width

/-- What holds of the engine in every state a run reaches. -/
structure Inv (s : State) : Prop where
  /-- the parameters are legal (R8) -/
  legal : s.config.Legal
  /-- every register is in range (R20) -/
  regs : RegsInRange s
  /-- BUF is in canonical form -/
  bufCanonical : s.buf.wf = true
  /-- BUF has no byte at BUFSZ or above (R36) -/
  bufBelow : s.buf.below s.config.bufSize = true
  /-- while BUSY = 1, DONE and ERR are 0 and ERRCODE is 0x00 (R29, R280, R311) -/
  busy : s.phase ≠ .idle → s.done = false ∧ s.err = false ∧ s.errcode = 0
  /-- during zeroisation ERRCMD and the latch are 0 (R311) -/
  zeroising : s.phase = .zeroise → s.errcmd = 0 ∧ s.latch = 0
  /-- codes 0x0B to 0xFF are never written (R284) -/
  errcode : s.errcode.toNat ≤ 0x0A
  /-- ERR = 1 has a fault code with it (R282, R283) -/
  errHasCode : s.err = true → s.errcode ≠ 0

/-- The next move is no host access outside the window. -/
def NextAccessInWindow (s : State) : Prop :=
  match s.schedule with
  | .read _ addr :: _ => inWindow s.config addr = true
  | .write _ addr _ :: _ => inWindow s.config addr = true
  | _ => True

/-- The 64 KiB window holds a legal access of this width at this offset (R60, R66). -/
def LegalAt (width : Width) (offset : Nat) : Prop := offset < 0x10000 ∧ accessLegal width offset = true

/-- The offsets whose writes are guarded by BUSY: CMD, FLAGS, the register window and the buffer window (R26, R319). -/
def BusyGuarded (offset : Nat) : Prop := offset = 0x00C ∨ offset = 0x018 ∨ 0x4000 ≤ offset

end Sys2Proof.Machine
end

