-- ==== Sys2Proof/Certificates/Slice0/Obligations.lean ====
section
/-! DEFINITION. The statements for the provers, in the order of the spec: encoding, lifecycle and faults, the host window, reset, the
24 commands, and the laws of the codec, of RSA and of the host procedures. -/

open Sys2Proof Sys2Proof.Machine

/-! ### Encoding -/

/-- R92, R95, R97 and R105: a word decodes to a command exactly when it is the word that encodes it. So every command comes back from its
word, with every operand at every value, and no bit of a command word is ignored. -/
def Obligations.DecodingInvertsEncodingBothWays : Prop :=
  ∀ (w : Word) (i : Instr), decode w = .command i ↔ encode i = w

/-- R98: the OP values of the list are the illegal ones, and a command with one of them completes with fault ILLEGAL_OPCODE. -/
def Obligations.UnassignedOpcodesFault : Prop :=
  ∀ w : Word,
    (decode w = .illegalOpcode ↔ UnassignedOpcode (cmdOP w)) ∧
    ∀ s : State, s.latch = w → UnassignedOpcode (cmdOP w) →
      ∃ t, completeLatched s = .next t ∧ Faulted .illegalOpcode s t

/-- R99: a word with the OP of a row and a 1 in a bit the row does not use completes with fault RESERVED_FIELD. -/
def Obligations.NonzeroUnusedBitsFault : Prop :=
  ∀ (o : Opcode) (w : Word) (hi lo k : Nat), cmdOP w = o.byte → (hi, lo) ∈ o.zeroRanges → lo ≤ k → k ≤ hi →
    w.getLsbD k = true → ∀ s : State, s.latch = w →
      ∃ t, completeLatched s = .next t ∧ Faulted .reservedField s t

/-- Words of the spec's examples, one or more of each family, decode to the commands the spec writes beside them. -/
def Obligations.ExampleWordsDecodeAsTheSpecSays : Prop :=
  decode 0x00002501 = .command (.mov 5 2) ∧
  decode 0x0CA10102 = .command (.ldi 1 3233) ∧
  decode 0x00421313 = .command (.divmod 3 4 1 2) ∧
  decode 0x00025020 = .command (.cmp 5 2) ∧
  decode 0x3F001221 = .command (.shl 2 1 63) ∧
  decode 0x08752631 = .command (.xgcd 6 7 8 2 5) ∧
  decode 0x28001038 = .command (.mrtest 1 40) ∧
  decode 0x00154641 = .command (.pack 6 4 5 1) ∧
  decode 0x00754042 = .command (.unpack 4 5 7) ∧
  decode 0x00126751 = .command (.modexp 7 6 2 1) ∧
  decode 0x00000000 = .illegalOpcode ∧
  decode 0x00012501 = .reservedField ∧
  decode 0x18752631 = .reservedField

/-! ### The lifecycle of a command -/

/-- R17 and R281: in phase EXEC the engine's move is the completion of the latch, a decode fault included, when it is scheduled and when
no move is left; and that completion is `exec` of the command where the latch decodes to one. An idle engine waits (R314). A scheduled host access inside the window is performed at its offset from BASE (R60). The
schedule, and that the engine moves when it is empty, are the model's form of R17 and R19 (log entry 3). -/
def Obligations.StepRunsTheLatchedCommandOrTheScheduledAccess : Prop :=
  ∀ s : State, s.config.Legal →
    (s.phase = .exec →
      (s.schedule = [] → step s = completeLatched s) ∧
      (∀ rest, s.schedule = .engine :: rest → step s = completeLatched { s with schedule := rest })) ∧
    (∀ i, s.phase = .exec → decode s.latch = .command i →
      (s.schedule = [] → step s = exec i s) ∧
      (∀ rest, s.schedule = .engine :: rest → step s = exec i { s with schedule := rest })) ∧
    (s.phase = .idle → s.schedule = [] → step s = .next s) ∧
    (∀ width offset rest, offset < 0x10000 → s.schedule = .read width (s.config.base + offset) :: rest →
      step s = .next ({ s with schedule := rest }.hostRead width offset)) ∧
    (∀ width offset data rest, offset < 0x10000 → s.schedule = .write width (s.config.base + offset) data :: rest →
      step s = .next ({ s with schedule := rest }.hostWrite width offset data))

/-- R282 and R285: every command completes from every state, either without a fault or with one of the faults the table lists for it, and a
command whose row lists none never faults. The writes of each command are in its own statement. -/
def Obligations.EveryCommandCompletes : Prop :=
  ∀ (i : Instr) (s : State), ∃ t, exec i s = .next t ∧
    (Completed s t ∨ ∃ code ∈ ownFaults i.opcode, Faulted code s t)

/-- R283: the completion of any word, from a state in which ERR is 0, sets ERR only together with the whole fault record, and then it
has written no register, no BUF byte and no flag. -/
def Obligations.FaultsAreRecordedAndWithoutEffect : Prop :=
  ∀ s t : State, s.config.Legal → s.phase = .exec → s.schedule = [] → s.err = false → step s = .next t → t.err = true →
    ∃ code, Faulted code s t ∧ (∀ i, decode s.latch = .command i → code ∈ ownFaults i.opcode) ∧
      (decode s.latch = .illegalOpcode → code = .illegalOpcode) ∧ (decode s.latch = .reservedField → code = .reservedField)

/-- R34: a command writes only the flags listed for it, a command that faults writes none, and no command reads a flag: with other flags
before it, it leaves the same registers, BUF and fault record, and gives its listed flags the same values. -/
def Obligations.CommandsWriteOnlyTheirListedFlagsAndReadNone : Prop :=
  ∀ (i : Instr) (s t : State), exec i s = .next t →
    FlagsWrittenAsListed i.opcode s.flags t.flags ∧
    (s.err = false → t.err = true → t.flags = s.flags) ∧
    (∀ f : Flags, ∃ u, exec i (s.setFlags f) = .next u ∧ u.setFlags t.flags = t ∧
      (s.err = false → t.err = true → u.flags = f) ∧
      (s.err = false → t.err = false → ListedFlagsAgree i.opcode t.flags u.flags))

/-- R36: of the commands only UNPACK writes BUF, and a command that neither packs nor unpacks does not read it either: its registers and
flags are the same whatever BUF holds. -/
def Obligations.OnlyPackAndUnpackReachTheBuffer : Prop :=
  ∀ (i : Instr) (s t : State), exec i s = .next t →
    (i.opcode ≠ .unpack → BufKept s t) ∧
    (i.opcode ≠ .pack → i.opcode ≠ .unpack → ∀ m : Memory, exec i (s.setBuf m) = .next (t.setBuf m))

/-- R18: MRTEST and RAND consume draws, and every other command takes none and is a function of its snapshot: from two states that
agree on the parameters, the registers, BUF and FLAGS it leaves the same registers, BUF and FLAGS, whatever the random source gives. The
stream of draws is the model's own field (log entry 4). -/
def Obligations.OnlyMrtestAndRandDraw : Prop :=
  ∀ (i : Instr) (s t s' t' : State), i.opcode ≠ .mrtest → i.opcode ≠ .rand →
    exec i s = .next t → exec i s' = .next t' →
    s'.config = s.config → s'.regs = s.regs → s'.buf = s.buf → s'.flags = s.flags →
    t.draws = s.draws ∧ t'.draws = s'.draws ∧ t'.regs = t.regs ∧ t'.buf = t.buf ∧ t'.flags = t.flags

/-! ### The invariant -/

/-- The invariant holds after reset, for every legal choice of the parameters, the reference one among them. -/
def Obligations.InvariantHoldsAfterReset : Prop :=
  (∀ c : Config, c.Legal → Inv (State.resetOf c)) ∧ Inv State.reset

/-- Every step keeps the invariant: registers stay in `[0, 2^W)`, BUF stays canonical and below BUFSZ, and BUSY, DONE, ERR and ERRCODE
stay consistent. -/
def Obligations.EveryStepKeepsTheInvariant : Prop :=
  ∀ s t : State, Inv s → step s = .next t → Inv t

/-- R32, R42 and R19: with legal parameters and the next host access, if any, inside the window, a step answers a next state; and no step
changes the parameters, so PARAM is constant. -/
def Obligations.StepAnswersANextStateWithTheSameParameters : Prop :=
  (∀ s : State, s.config.Legal → NextAccessInWindow s → ∃ t, step s = .next t) ∧
  (∀ s t : State, step s = .next t → t.config = s.config ∧ t.paramWord = s.paramWord)

/-! ### The host window -/

/-- R280: a write of CMD while idle latches the word, clears DONE, ERR and ERRCODE, sets BUSY and lowers IRQ, and changes nothing else:
OVR and ERRCMD are unchanged, and nothing is checked. The answer of the bus and the schedule are the model's own fields (log entries 3
and 6). -/
def Obligations.AcceptanceLatchesTheWord : Prop :=
  ∀ (s : State) (w : Word) (rest : List Move), s.config.Legal → s.phase = .idle →
    s.schedule = .write .word (s.config.base + 0x00C) w :: rest →
    ∃ t, step s = .next t ∧
      t = { s with latch := w, done := false, err := false, errcode := 0, phase := .exec, schedule := rest,
                   response := some .written } ∧
      t.busy = true ∧ t.irq = false

/-- R319: a legal write to a guarded offset while BUSY = 1 sets OVR and does nothing else; one to ID, PARAM, ERRCODE, ERRCMD or the
unmapped range changes no state in any phase. -/
def Obligations.WritesWhileBusyOnlySetOverrun : Prop :=
  ∀ (s : State) (width : Width) (offset : Nat) (data : Word), LegalAt width offset →
    (s.busy = true → BusyGuarded offset →
      s.hostWrite width offset data = { s with ovr := true, response := some .written }) ∧
    (offset ∈ [0x000, 0x010, 0x014, 0x01C] ∨ (0x020 ≤ offset ∧ offset < 0x4000) →
      s.hostWrite width offset data = { s with response := some .written })

/-- R320: a legal read of FLAGS, the register window or the buffer window while BUSY = 1 answers any value of the access width, whatever
the register, the byte or the offset: each 32-bit word that is supplied is the data bus of the read, each value below `256^bytes` is
that of the access's lanes on some such word, and the read leaves every architectural field as it was. The stream of such words is the
model's own field (log entry 5). -/
def Obligations.ReadsWhileBusyAreUnconstrained : Prop :=
  ∀ (s : State) (width : Width) (offset : Nat), LegalAt width offset → s.busy = true → offset = 0x018 ∨ 0x4000 ≤ offset →
    (∃ lanes, s.hostRead width offset =
      { s with busyReads := s.busyReads.advance 1, response := some (.data lanes) }) ∧
    (∀ (lanes : Word) rest, s.busyReads.supplied = lanes.toNat :: rest →
      (s.hostRead width offset).response = some (.data lanes)) ∧
    (∀ v, v < 256 ^ width.bytes → ∃ lanes, (laneValue width offset lanes).toNat = v)

/-- R66 and R67: an access is legal exactly when it is an aligned 32-bit access outside the buffer window, or a naturally aligned one
inside it; any other is refused with the bus error and changes no state. -/
def Obligations.IllegalAccessesAreRefused : Prop :=
  ∀ (s : State) (width : Width) (offset : Nat) (data : Word), offset < 0x10000 →
    (accessLegal width offset = true ↔
      (offset < 0x8000 ∧ width = .word ∧ offset % 4 = 0) ∨ (0x8000 ≤ offset ∧ offset % width.bytes = 0)) ∧
    (accessLegal width offset = false →
      s.hostRead width offset = { s with response := some .error } ∧
      s.hostWrite width offset data = { s with response := some .error })

/-- R63: the register window while idle. A read of word `j < W/32` of Ri gives bits `32j+31 : 32j`, a write replaces them and keeps
every other bit and register, and words `j >= W/32` read 0 and ignore writes. -/
def Obligations.RegisterWindowReadsAndWritesWords : Prop :=
  ∀ (s : State) (i : Reg) (j : Nat) (data : Word), s.phase = .idle → j < 256 →
    let offset := 0x4000 + 0x400 * i.val + 4 * j
    let t := s.hostWrite .word offset data
    (j < s.config.width / 32 →
      (s.hostRead .word offset).response = some (.data (BitVec.ofNat 32 (s.reg i / 2 ^ (32 * j)))) ∧
      RegsKeptExcept [i] s t ∧ t = { s with regs := t.regs, response := some .written } ∧
      (∀ n, (t.reg i).testBit n =
        if 32 * j ≤ n ∧ n < 32 * j + 32 then data.getLsbD (n - 32 * j) else (s.reg i).testBit n)) ∧
    (s.config.width / 32 ≤ j →
      (s.hostRead .word offset).response = some (.data 0) ∧ t = { s with response := some .written })

/-- R64 and R72: the buffer window while idle. A read of `n` bytes gives the sum of `BUF[o+b] * 256**b`, with 0 for bytes at BUFSZ and
above; a write stores the bytes of the value on the access's lanes, lane `o mod 4` and up, ignores those at BUFSZ and above, and keeps
every other byte, register and flag. -/
def Obligations.BufferWindowReadsAndWritesBytes : Prop :=
  ∀ (s : State) (width : Width) (o : Nat) (lanes : Word), s.buf.wf = true → s.phase = .idle → LegalAt width (0x8000 + o) →
    let t := s.hostWrite width (0x8000 + o) lanes
    (∃ read, (s.hostRead width (0x8000 + o)).response = some (.data read) ∧
      (laneValue width (0x8000 + o) read).toNat =
        ∑ b ∈ Finset.range width.bytes, (if o + b < s.config.bufSize then (s.buf.read (o + b)).toNat else 0) * 256 ^ b) ∧
    (∀ b, b < width.bytes → o + b < s.config.bufSize →
      (t.buf.read (o + b)).toNat = (laneValue width (0x8000 + o) lanes).toNat / 256 ^ b % 256) ∧
    (∀ a, a < o ∨ o + width.bytes ≤ a ∨ s.config.bufSize ≤ a → t.buf.read a = s.buf.read a) ∧
    t = { s with buf := t.buf, response := some .written }

/-- R70: on the 32-bit data bus, byte lane `b` carries the byte at offset `4*(offset div 4) + b`: for a buffer read while idle on all four
lanes, whatever the width of the access (log entry 15), and for a buffer write while idle on the lanes of the access. For a register
read while idle, lane `b` carries byte `b` of the slot's word, as R71 says. -/
def Obligations.ByteLanesCarryTheirOffsets : Prop :=
  ∀ (s : State) (width : Width) (b : Nat), s.phase = .idle → b < 4 →
    (∀ o, LegalAt width (0x8000 + o) →
      ∃ lanes, (s.hostRead width (0x8000 + o)).response = some (.data lanes) ∧
        lanes.toNat / 256 ^ b % 256 = (s.bufByte (4 * (o / 4) + b)).toNat) ∧
    (∀ o lanes, s.buf.wf = true → LegalAt width (0x8000 + o) → o % 4 ≤ b → b < o % 4 + width.bytes →
      4 * (o / 4) + b < s.config.bufSize →
      ((s.hostWrite width (0x8000 + o) lanes).buf.read (4 * (o / 4) + b)).toNat = lanes.toNat / 256 ^ b % 256) ∧
    (∀ (i : Reg) (j : Nat), j < s.config.width / 32 → j < 256 →
      ∃ lanes, (s.hostRead .word (0x4000 + 0x400 * i.val + 4 * j)).response = some (.data lanes) ∧
        lanes.toNat / 256 ^ b % 256 = s.reg i / 2 ^ (8 * (4 * j + b)) % 256)

/-- R24, R27, R28, R29, R30, R31, R32, R35: what each control register and the unmapped range read as, in every phase (FLAGS while
idle, R33). -/
def Obligations.ControlRegistersReadAsTheMapSays : Prop :=
  ∀ s : State,
    let read := fun offset => (s.hostRead .word offset).response
    read 0x000 = some (.data 0x52534101) ∧
    read 0x004 = some (.data (if s.ie then 1 else 0)) ∧
    read 0x008 = some (.data ((if s.phase = .idle then 0 else 1) + (if s.done then 2 else 0) + (if s.err then 4 else 0) +
      (if s.ovr then 8 else 0))) ∧
    read 0x00C = some (.data 0) ∧
    read 0x010 = some (.data (s.errcode.setWidth 32)) ∧
    read 0x014 = some (.data (BitVec.ofNat 16 s.config.bufSize ++ BitVec.ofNat 16 s.config.width)) ∧
    (s.phase = .idle → ∃ w, read 0x018 = some (.data w) ∧ w.toNat < 2 ^ 8 ∧ Flags.ofWord w = s.flags) ∧
    read 0x01C = some (.data s.errcmd) ∧
    (∀ offset, 0x020 ≤ offset → offset < 0x4000 → offset % 4 = 0 → read offset = some (.data 0))

/-- R28, R29, R33: the effect of a write to CTRL (with SRST = 0), to STATUS in any phase, and to FLAGS while idle. -/
def Obligations.ControlWritesChangeTheirFields : Prop :=
  ∀ (s : State) (w : Word),
    (w.getLsbD 1 = false →
      s.hostWrite .word 0x004 w = { s with ie := w.getLsbD 0, response := some .written }) ∧
    s.hostWrite .word 0x008 w =
      { s with
        done := if w.getLsbD 1 then false else s.done
        err := if w.getLsbD 2 then false else s.err
        ovr := if w.getLsbD 3 then false else s.ovr
        response := some .written } ∧
    (s.phase = .idle →
      s.hostWrite .word 0x018 w =
        { s with
          flags := { z := w.getLsbD 0, c := w.getLsbD 1, v := w.getLsbD 2, lt := w.getLsbD 3, eq := w.getLsbD 4,
                     gt := w.getLsbD 5, p := w.getLsbD 6, t := w.getLsbD 7 }
          response := some .written })

/-- R74 and R78: a host read, at any offset and width and in any phase, changes nothing but the answer and the free values it took; and
while BUSY = 1 no host access but a reset changes a register, a BUF byte, a flag, the latch or the phase, so the operands a command
sees at its completion are those of its acceptance. -/
def Obligations.HostAccessesKeepTheOperands : Prop :=
  ∀ (s : State) (width : Width) (offset : Nat) (data : Word),
    (∃ fr resp, s.hostRead width offset = { s with busyReads := fr, response := resp }) ∧
    (s.busy = true → ¬ (width = .word ∧ offset = 0x004 ∧ data.getLsbD 1 = true) → offset < 0x10000 →
      let t := s.hostWrite width offset data
      RegsKeptExcept [] s t ∧ BufKept s t ∧ t.flags = s.flags ∧ t.latch = s.latch ∧ t.phase = s.phase)

/-- R288: IRQ is low after an acceptance, equals IE after every completion, falls when the host writes 1 to DONE, and follows IE while
DONE = 1. -/
def Obligations.InterruptFollowsDoneAndEnable : Prop :=
  (∀ (s : State) (w : Word), (s.accept w).irq = false) ∧
  (∀ s t : State, s.phase = .exec → engineStep s = .next t → t.irq = s.ie) ∧
  (∀ (s : State) (w : Word), w.getLsbD 1 = true → (s.hostWrite .word 0x008 w).irq = false) ∧
  (∀ (s : State) (w : Word), w.getLsbD 1 = false → (s.hostWrite .word 0x004 w).irq = (w.getLsbD 0 && s.done)) ∧
  (∀ s : State, s.resetEntry.irq = false)

/-! ### Reset -/

/-- R310 and R311: the hardware reset and the soft reset have the same effect in every phase, and that effect is the one listed: a
command in progress is abandoned, and registers, BUF and FLAGS are not yet zero. -/
def Obligations.BothResetsEnterZeroisation : Prop :=
  ∀ (s : State) (w : Word) (rest : List Move), s.config.Legal →
    (s.schedule = .hardReset :: rest →
      step s = .next { s with ie := false, done := false, err := false, ovr := false, errcode := 0, errcmd := 0, latch := 0,
                              phase := .zeroise, schedule := rest }) ∧
    (w.getLsbD 1 = true → s.schedule = .write .word (s.config.base + 0x004) w :: rest →
      step s = .next { s with ie := false, done := false, err := false, ovr := false, errcode := 0, errcmd := 0, latch := 0,
                              phase := .zeroise, schedule := rest, response := some .written })

/-- R312 and R41: from every state, a reset followed by the engine's step leaves every register, BUF byte and flag 0, the engine idle with
nothing set, and the latch and the fault record 0. And from every state in phase ZEROISE, whatever the host did since the reset, the
engine's step zeroises and changes nothing else: OVR and DONE keep their values. -/
def Obligations.ResetThenZeroisationGivesTheResetState : Prop :=
  (∀ (s : State) (rest : List Move), s.config.Legal → s.schedule = .hardReset :: .engine :: rest →
    ∃ u t, step s = .next u ∧ u.busy = true ∧ step u = .next t ∧
      (∀ r, t.reg r = 0) ∧ (∀ o, t.buf.read o = 0) ∧ t.flags.toWord = 0 ∧ t.statusWord = 0 ∧ t.ie = false ∧ t.irq = false ∧
      t.errcode = 0 ∧ t.errcmd = 0 ∧ t.latch = 0 ∧ t.phase = .idle ∧
      t = { State.resetOf s.config with
            draws := s.draws, busyReads := s.busyReads, schedule := rest, response := s.response }) ∧
  (∀ (s : State) (rest : List Move), s.config.Legal → s.phase = .zeroise →
    (s.schedule = [] ∧ rest = []) ∨ s.schedule = .engine :: rest →
    ∃ t, step s = .next t ∧
      (∀ r, t.reg r = 0) ∧ (∀ o, t.buf.read o = 0) ∧ t.flags.toWord = 0 ∧ t.busy = false ∧ t.ovr = s.ovr ∧ t.done = s.done ∧
      t = { s with regs := t.regs, buf := t.buf, flags := t.flags, phase := .idle, schedule := rest })

/-! ### Data movement and integer arithmetic -/

/-- R121: MOV. -/
def Obligations.MovCopiesARegister : Prop :=
  RowDecodes 0x01 [(31, 16)] (fun w => .mov (cmdD w) (cmdA w)) ∧
  ∀ (d a : Reg) (s : State), ∃ t, exec (.mov d a) s = .next t ∧
    t.reg d = s.reg a ∧ RegsKeptExcept [d] s t ∧ BufKept s t ∧
    t.flags = { s.flags with z := decide (s.reg a = 0) } ∧ t.draws = s.draws ∧ Completed s t

/-- R122: LDI. -/
def Obligations.LdiLoadsAnImmediate : Prop :=
  RowDecodes 0x02 [(15, 12)] (fun w => .ldi (cmdD w) (cmdIMM16 w)) ∧
  ∀ (d : Reg) (imm : BitVec 16) (s : State), ∃ t, exec (.ldi d imm) s = .next t ∧
    t.reg d = imm.toNat ∧ RegsKeptExcept [d] s t ∧ BufKept s t ∧
    t.flags = { s.flags with z := decide (imm = 0) } ∧ t.draws = s.draws ∧ Completed s t

/-- R123: ADD. -/
def Obligations.AddWrapsAndReportsCarry : Prop :=
  RowDecodes 0x10 [(31, 20)] (fun w => .add (cmdD w) (cmdA w) (cmdB w)) ∧
  ∀ (d a b : Reg) (s : State), ∃ t, exec (.add d a b) s = .next t ∧
    t.reg d = (s.reg a + s.reg b) % 2 ^ s.config.width ∧ RegsKeptExcept [d] s t ∧ BufKept s t ∧
    t.flags = { s.flags with
      z := decide ((s.reg a + s.reg b) % 2 ^ s.config.width = 0)
      c := decide (2 ^ s.config.width ≤ s.reg a + s.reg b) } ∧
    t.draws = s.draws ∧ Completed s t

/-- R124: SUB. The result is the one value below `2^W` that gives `x[A]` when `x[B]` is added modulo `2^W`. -/
def Obligations.SubWrapsAndReportsBorrow : Prop :=
  RowDecodes 0x11 [(31, 20)] (fun w => .sub (cmdD w) (cmdA w) (cmdB w)) ∧
  ∀ (d a b : Reg) (s : State), ∃ t, exec (.sub d a b) s = .next t ∧
    (t.reg d : Int) = ((s.reg a : Int) - (s.reg b : Int)) % 2 ^ s.config.width ∧
    (s.reg b ≤ s.reg a → s.reg a < 2 ^ s.config.width → t.reg d = s.reg a - s.reg b) ∧
    RegsKeptExcept [d] s t ∧ BufKept s t ∧
    t.flags = { s.flags with z := decide (s.reg a = s.reg b), c := decide (s.reg a < s.reg b) } ∧
    t.draws = s.draws ∧ Completed s t

/-- R125: MUL. -/
def Obligations.MulKeepsTheLowBits : Prop :=
  RowDecodes 0x12 [(31, 20)] (fun w => .mul (cmdD w) (cmdA w) (cmdB w)) ∧
  ∀ (d a b : Reg) (s : State), ∃ t, exec (.mul d a b) s = .next t ∧
    t.reg d = s.reg a * s.reg b % 2 ^ s.config.width ∧ RegsKeptExcept [d] s t ∧ BufKept s t ∧
    t.flags = { s.flags with
      z := decide (s.reg a * s.reg b % 2 ^ s.config.width = 0)
      v := decide (2 ^ s.config.width ≤ s.reg a * s.reg b) } ∧
    t.draws = s.draws ∧ Completed s t

/-- R126: DIVMOD. Divisor 0 faults; else the quotient is written to D and then the remainder to C, which is kept if C = D. -/
def Obligations.DivmodGivesQuotientAndRemainder : Prop :=
  RowDecodes 0x13 [(31, 24)] (fun w => .divmod (cmdD w) (cmdC w) (cmdA w) (cmdB w)) ∧
  ∀ (d c a b : Reg) (s : State), ∃ t, exec (.divmod d c a b) s = .next t ∧
    (s.reg b = 0 → Faulted .divZero s t) ∧
    (s.reg b ≠ 0 →
      ∃ q r, s.reg a = q * s.reg b + r ∧ r < s.reg b ∧
        t.reg c = r ∧ (d ≠ c → t.reg d = q) ∧ RegsKeptExcept [d, c] s t ∧ BufKept s t ∧
        t.flags = { s.flags with z := decide (r = 0) } ∧ t.draws = s.draws ∧ Completed s t)

/-! ### Comparators and shifters -/

/-- R141: CMP. Exactly one of LT, EQ and GT is 1 afterwards. -/
def Obligations.CmpSetsOneOfThreeFlags : Prop :=
  RowDecodes 0x20 [(11, 8), (31, 20)] (fun w => .cmp (cmdA w) (cmdB w)) ∧
  ∀ (a b : Reg) (s : State), ∃ t, exec (.cmp a b) s = .next t ∧
    RegsKeptExcept [] s t ∧ BufKept s t ∧
    t.flags = { s.flags with
      lt := decide (s.reg a < s.reg b), eq := decide (s.reg a = s.reg b), gt := decide (s.reg b < s.reg a) } ∧
    t.flags.lt.toNat + t.flags.eq.toNat + t.flags.gt.toNat = 1 ∧
    t.draws = s.draws ∧ Completed s t

/-- R142: SHL. -/
def Obligations.ShlShiftsByTheImmediate : Prop :=
  RowDecodes 0x21 [(23, 16)] (fun w => .shl (cmdD w) (cmdA w) (cmdIMM8 w)) ∧
  ∀ (d a : Reg) (imm : BitVec 8) (s : State), ∃ t, exec (.shl d a imm) s = .next t ∧
    t.reg d = s.reg a * 2 ^ imm.toNat % 2 ^ s.config.width ∧ RegsKeptExcept [d] s t ∧ BufKept s t ∧
    t.flags = { s.flags with
      z := decide (s.reg a * 2 ^ imm.toNat % 2 ^ s.config.width = 0)
      v := decide (2 ^ s.config.width ≤ s.reg a * 2 ^ imm.toNat) } ∧
    t.draws = s.draws ∧ Completed s t

/-- R143: SHR, on a register in range (R20; the invariant keeps it there). -/
def Obligations.ShrShiftsByTheImmediate : Prop :=
  RowDecodes 0x22 [(23, 16)] (fun w => .shr (cmdD w) (cmdA w) (cmdIMM8 w)) ∧
  ∀ (d a : Reg) (imm : BitVec 8) (s : State), s.reg a < 2 ^ s.config.width → ∃ t, exec (.shr d a imm) s = .next t ∧
    t.reg d = s.reg a / 2 ^ imm.toNat ∧ (s.config.width ≤ imm.toNat → t.reg d = 0) ∧
    RegsKeptExcept [d] s t ∧ BufKept s t ∧
    t.flags = { s.flags with z := decide (s.reg a / 2 ^ imm.toNat = 0) } ∧ t.draws = s.draws ∧ Completed s t

/-- R144: SHLV, for a count of any size. -/
def Obligations.ShlvShiftsByAnyCount : Prop :=
  RowDecodes 0x23 [(31, 20)] (fun w => .shlv (cmdD w) (cmdA w) (cmdB w)) ∧
  ∀ (d a b : Reg) (s : State), ∃ t, exec (.shlv d a b) s = .next t ∧
    t.reg d = s.reg a * 2 ^ s.reg b % 2 ^ s.config.width ∧
    (s.config.width ≤ s.reg b → t.reg d = 0 ∧ t.flags.v = decide (s.reg a ≠ 0)) ∧
    RegsKeptExcept [d] s t ∧ BufKept s t ∧
    t.flags = { s.flags with
      z := decide (s.reg a * 2 ^ s.reg b % 2 ^ s.config.width = 0)
      v := decide (2 ^ s.config.width ≤ s.reg a * 2 ^ s.reg b) } ∧
    t.draws = s.draws ∧ Completed s t

/-- R145: SHRV, for a count of any size, on a register in range (R20; the invariant keeps it there). -/
def Obligations.ShrvShiftsByAnyCount : Prop :=
  RowDecodes 0x24 [(31, 20)] (fun w => .shrv (cmdD w) (cmdA w) (cmdB w)) ∧
  ∀ (d a b : Reg) (s : State), s.reg a < 2 ^ s.config.width → ∃ t, exec (.shrv d a b) s = .next t ∧
    t.reg d = s.reg a / 2 ^ s.reg b ∧ (s.config.width ≤ s.reg b → t.reg d = 0) ∧
    RegsKeptExcept [d] s t ∧ BufKept s t ∧
    t.flags = { s.flags with z := decide (s.reg a / 2 ^ s.reg b = 0) } ∧ t.draws = s.draws ∧ Completed s t

/-- R146: BITLEN. 0 for 0, else the one `r` with `2^(r-1) <= x[A] < 2^r` (R11). -/
def Obligations.BitlenGivesTheBitLength : Prop :=
  RowDecodes 0x25 [(31, 16)] (fun w => .bitlen (cmdD w) (cmdA w)) ∧
  ∀ (d a : Reg) (s : State), ∃ t, exec (.bitlen d a) s = .next t ∧
    (s.reg a = 0 → t.reg d = 0) ∧ (s.reg a ≠ 0 → 1 ≤ t.reg d ∧ 2 ^ (t.reg d - 1) ≤ s.reg a ∧ s.reg a < 2 ^ t.reg d) ∧
    RegsKeptExcept [d] s t ∧ BufKept s t ∧
    t.flags = { s.flags with z := decide (s.reg a = 0) } ∧ t.draws = s.draws ∧ Completed s t

/-! ### The extended-GCD unit -/

/-- R161: GCD gives the greatest common divisor, with `gcd(a, 0) = a` and `gcd(0, 0) = 0`; Z is 1 exactly when both operands are 0. -/
def Obligations.GcdGivesTheGreatestCommonDivisor : Prop :=
  RowDecodes 0x30 [(31, 20)] (fun w => .gcd (cmdD w) (cmdA w) (cmdB w)) ∧
  ∀ (d a b : Reg) (s : State), ∃ t, exec (.gcd d a b) s = .next t ∧
    t.reg d = Nat.gcd (s.reg a) (s.reg b) ∧ t.reg d ≤ max (s.reg a) (s.reg b) ∧
    RegsKeptExcept [d] s t ∧ BufKept s t ∧
    t.flags = { s.flags with z := decide (s.reg a = 0 ∧ s.reg b = 0) } ∧ t.draws = s.draws ∧ Completed s t

/-- R162: XGCD writes the result of the loop of the rule: g to D, then `trunc_W(s)` to C, then `trunc_W(t)` to E, the write listed later
winning; and `a*s + b*t = g = gcd(a, b)`. -/
def Obligations.XgcdGivesTheBezoutCoefficients : Prop :=
  RowDecodes 0x31 [(31, 28)] (fun w => .xgcd (cmdD w) (cmdC w) (cmdE w) (cmdA w) (cmdB w)) ∧
  ∀ (d c e a b : Reg) (s : State), ∃ t, exec (.xgcd d c e a b) s = .next t ∧
    ∃ (g : Nat) (x y : Int), EuclidRun (s.reg a) (s.reg b) 1 0 0 1 g x y ∧
      (s.reg a : Int) * x + (s.reg b : Int) * y = g ∧ g = Nat.gcd (s.reg a) (s.reg b) ∧
      (t.reg e : Int) = y % 2 ^ s.config.width ∧
      (c ≠ e → (t.reg c : Int) = x % 2 ^ s.config.width) ∧
      (d ≠ c → d ≠ e → t.reg d = g) ∧
      RegsKeptExcept [d, c, e] s t ∧ BufKept s t ∧
      t.flags = { s.flags with z := decide (g = 0) } ∧ t.draws = s.draws ∧ Completed s t

/-- R163: with distinct destinations and operands in range, `sext_W` of the two registers gives the exact signed coefficients, so a host
that reads them so has `a*s + b*t = g` over the integers. -/
def Obligations.XgcdCoefficientsAreExactAsSignedValues : Prop :=
  ∀ (d c e a b : Reg) (s t : State), s.config.Legal → s.reg a < 2 ^ s.config.width → s.reg b < 2 ^ s.config.width →
    d ≠ c → d ≠ e → c ≠ e → exec (.xgcd d c e a b) s = .next t →
    EuclidRun (s.reg a) (s.reg b) 1 0 0 1 (t.reg d) (sextW s.config.width (t.reg c)) (sextW s.config.width (t.reg e)) ∧
    (s.reg a : Int) * sextW s.config.width (t.reg c) + (s.reg b : Int) * sextW s.config.width (t.reg e) = t.reg d

/-- R164: MODINV. Modulus 0 faults MOD_ZERO, a common divisor faults NOT_INVERTIBLE, and else the result is the inverse in `[0, m)`. -/
def Obligations.ModinvGivesTheInverse : Prop :=
  RowDecodes 0x32 [(31, 20)] (fun w => .modinv (cmdD w) (cmdA w) (cmdB w)) ∧
  ∀ (d a b : Reg) (s : State), ∃ t, exec (.modinv d a b) s = .next t ∧
    (s.reg b = 0 → Faulted .modZero s t) ∧
    (s.reg b ≠ 0 → Nat.gcd (s.reg a) (s.reg b) ≠ 1 → Faulted .notInvertible s t) ∧
    (s.reg b ≠ 0 → Nat.gcd (s.reg a) (s.reg b) = 1 →
      (∃ x y, EuclidRun (s.reg a) (s.reg b) 1 0 0 1 1 x y ∧ (t.reg d : Int) = x % (s.reg b : Int)) ∧
      t.reg d < s.reg b ∧ s.reg a * t.reg d % s.reg b = 1 % s.reg b ∧
      RegsKeptExcept [d] s t ∧ BufKept s t ∧
      t.flags = { s.flags with z := decide (t.reg d = 0) } ∧ t.draws = s.draws ∧ Completed s t)

/-! ### The Miller-Rabin tester and the random source -/

/-- R181, R182, R184, R185, R186: MRTEST writes P only. The short-circuits take no draw; else the bases drawn lie in `{3, ..., c-2}`, an
accepted candidate took exactly `k` draws whose rounds all passed, and a rejected one stopped at the first round that failed. The
stream that supplies the draws is the model's own field (log entry 4). -/
def Obligations.MrtestAcceptsWhenEveryRoundPasses : Prop :=
  RowDecodes 0x38 [(11, 8), (23, 16)] (fun w => .mrtest (cmdA w) (cmdIMM8 w)) ∧
  ∀ (a : Reg) (imm : BitVec 8) (s : State), ∃ t, exec (.mrtest a imm) s = .next t ∧
    RegsKeptExcept [] s t ∧ BufKept s t ∧ t.flags = { s.flags with p := t.flags.p } ∧ Completed s t ∧
    (s.reg a ≤ 1 ∨ s.reg a = 4 → t.flags.p = false ∧ t.draws = s.draws) ∧
    (s.reg a = 2 ∨ s.reg a = 3 → t.flags.p = true ∧ t.draws = s.draws) ∧
    (5 ≤ s.reg a → ∃ n ≤ imm.toNat, t.draws = s.draws.advance n ∧
      (∀ i < n, 3 ≤ mrBase (s.reg a) s.draws i ∧ mrBase (s.reg a) s.draws i ≤ s.reg a - 2) ∧
      ((t.flags.p = true ∧ n = imm.toNat ∧ ∀ i < n, RoundPasses (s.reg a) (mrBase (s.reg a) s.draws i)) ∨
       (t.flags.p = false ∧ 1 ≤ n ∧ (∀ i < n - 1, RoundPasses (s.reg a) (mrBase (s.reg a) s.draws i)) ∧
        ¬ RoundPasses (s.reg a) (mrBase (s.reg a) s.draws (n - 1)))))

/-- R188: a prime candidate is accepted under every draw sequence and for every number of rounds. -/
def Obligations.MrtestAcceptsEveryPrime : Prop :=
  ∀ (a : Reg) (imm : BitVec 8) (s t : State), Nat.Prime (s.reg a) → exec (.mrtest a imm) s = .next t → t.flags.p = true

/-- R190, R191: RAND. Bound 0 faults with no draw; else one draw gives a value below the bound, and every value below the bound is
possible: one that is supplied as the next draw is the one written. The stream of draws is the model's own field (log entry 4). -/
def Obligations.RandDrawsBelowItsBound : Prop :=
  RowDecodes 0x39 [(31, 16)] (fun w => .rand (cmdD w) (cmdA w)) ∧
  ∀ (d a : Reg) (s : State), ∃ t, exec (.rand d a) s = .next t ∧
    (s.reg a = 0 → Faulted .emptyRange s t) ∧
    (s.reg a ≠ 0 →
      t.reg d < s.reg a ∧ t.draws = s.draws.advance 1 ∧
      (∀ v rest, v < s.reg a → s.draws.supplied = v :: rest → t.reg d = v) ∧
      RegsKeptExcept [d] s t ∧ BufKept s t ∧
      t.flags = { s.flags with z := decide (t.reg d = 0) } ∧ Completed s t)

/-! ### The block encoder and decoder -/

/-- R201: BSIZE. Modulus 0 faults; else `k` is the largest integer with `256**k <= n`. -/
def Obligations.BsizeGivesTheBlockSize : Prop :=
  RowDecodes 0x40 [(31, 16)] (fun w => .bsize (cmdD w) (cmdA w)) ∧
  ∀ (d a : Reg) (s : State), ∃ t, exec (.bsize d a) s = .next t ∧
    (s.reg a = 0 → Faulted .modZero s t) ∧
    (s.reg a ≠ 0 →
      (∀ b, 1 ≤ b → 2 ^ (b - 1) ≤ s.reg a → s.reg a < 2 ^ b → t.reg d = (b - 1) / 8) ∧
      256 ^ t.reg d ≤ s.reg a ∧ s.reg a < 256 ^ (t.reg d + 1) ∧
      RegsKeptExcept [d] s t ∧ BufKept s t ∧
      t.flags = { s.flags with z := decide (t.reg d = 0) } ∧ t.draws = s.draws ∧ Completed s t)

/-- R202, R203: PACK. The range check comes first, then the check against the modulus; else the value is the little-endian value of the
chunk. -/
def Obligations.PackReadsALittleEndianChunk : Prop :=
  RowDecodes 0x41 [(31, 24)] (fun w => .pack (cmdD w) (cmdA w) (cmdB w) (cmdC w)) ∧
  ∀ (d a b c : Reg) (s : State),
    let v := ∑ i ∈ Finset.range (s.reg b), (s.buf.read (s.reg a + i)).toNat * 256 ^ i
    ∃ t, exec (.pack d a b c) s = .next t ∧
      (s.reg b > s.config.width / 8 ∨ s.reg a + s.reg b > s.config.bufSize → Faulted .bufRange s t) ∧
      (s.reg b ≤ s.config.width / 8 → s.reg a + s.reg b ≤ s.config.bufSize → s.reg c ≤ v → Faulted .modOvfBlock s t) ∧
      (s.reg b ≤ s.config.width / 8 → s.reg a + s.reg b ≤ s.config.bufSize → v < s.reg c →
        t.reg d = v ∧ RegsKeptExcept [d] s t ∧ BufKept s t ∧
        t.flags = { s.flags with z := decide (v = 0) } ∧ t.draws = s.draws ∧ Completed s t)

/-- R204, R205: UNPACK. A range violation faults; else the byte at position `i` of `[o, o+c)` is the digit of `256**i`, every other byte
reads as before, and T says that a nonzero digit was dropped (BUF in canonical form, as the invariant keeps it). -/
def Obligations.UnpackWritesTheLowDigits : Prop :=
  RowDecodes 0x42 [(11, 8), (31, 24)] (fun w => .unpack (cmdA w) (cmdB w) (cmdC w)) ∧
  ∀ (a b c : Reg) (s : State), ∃ t, exec (.unpack a b c) s = .next t ∧
    (s.reg b > s.config.width / 8 ∨ s.reg a + s.reg b > s.config.bufSize → Faulted .bufRange s t) ∧
    (s.reg b ≤ s.config.width / 8 → s.reg a + s.reg b ≤ s.config.bufSize → s.buf.wf = true →
      (∀ i < s.reg b, (t.buf.read (s.reg a + i)).toNat = s.reg c / 256 ^ i % 256) ∧
      BufKeptOutside (s.reg a) (s.reg b) s t ∧ RegsKeptExcept [] s t ∧
      t.flags = { s.flags with t := decide (256 ^ s.reg b ≤ s.reg c) } ∧ t.draws = s.draws ∧ Completed s t)

/-- R206: MARKER. -/
def Obligations.MarkerGivesTheTrailingLength : Prop :=
  RowDecodes 0x43 [(31, 20)] (fun w => .marker (cmdD w) (cmdA w) (cmdB w)) ∧
  ∀ (d a b : Reg) (s : State), ∃ t, exec (.marker d a b) s = .next t ∧
    (s.reg b = 0 → Faulted .blkZero s t) ∧
    (s.reg b ≠ 0 →
      t.reg d = s.reg a % s.reg b ∧ RegsKeptExcept [d] s t ∧ BufKept s t ∧
      t.flags = { s.flags with z := decide (s.reg a % s.reg b = 0) } ∧ t.draws = s.draws ∧ Completed s t)

/-- R207: DLEN, with its faults in order; else the length that inverts encode. -/
def Obligations.DlenGivesThePayloadLength : Prop :=
  RowDecodes 0x44 [(31, 24)] (fun w => .dlen (cmdD w) (cmdA w) (cmdB w) (cmdC w)) ∧
  ∀ (d a b c : Reg) (s : State),
    let m := s.reg a
    let r := s.reg b
    let k := s.reg c
    let L := if r = 0 then m * k else (m - 1) * k + r
    ∃ t, exec (.dlen d a b c) s = .next t ∧
      (k = 0 → Faulted .blkZero s t) ∧
      (k ≠ 0 → (k ≤ r ∨ (r ≠ 0 ∧ m = 0) ∨ 2 ^ s.config.width ≤ L) → Faulted .malformed s t) ∧
      (k ≠ 0 → r < k → (r = 0 ∨ m ≠ 0) → L < 2 ^ s.config.width →
        t.reg d = L ∧ RegsKeptExcept [d] s t ∧ BufKept s t ∧
        t.flags = { s.flags with z := decide (L = 0) } ∧ t.draws = s.draws ∧ Completed s t)

/-! ### Modular multiplication and exponentiation -/

/-- R231: MODMUL. -/
def Obligations.ModmulReducesTheExactProduct : Prop :=
  RowDecodes 0x50 [(31, 24)] (fun w => .modmul (cmdD w) (cmdA w) (cmdB w) (cmdC w)) ∧
  ∀ (d a b c : Reg) (s : State), ∃ t, exec (.modmul d a b c) s = .next t ∧
    (s.reg c = 0 → Faulted .modZero s t) ∧
    (s.reg c ≠ 0 →
      t.reg d = s.reg a * s.reg b % s.reg c ∧ RegsKeptExcept [d] s t ∧ BufKept s t ∧
      t.flags = { s.flags with z := decide (s.reg a * s.reg b % s.reg c = 0) } ∧ t.draws = s.draws ∧ Completed s t)

/-- R232, R233: MODEXP gives the exact power modulo every modulus, even ones included, with `0 ** 0 = 1`. -/
def Obligations.ModexpGivesTheExactPower : Prop :=
  RowDecodes 0x51 [(31, 24)] (fun w => .modexp (cmdD w) (cmdA w) (cmdB w) (cmdC w)) ∧
  ∀ (d a b c : Reg) (s : State), ∃ t, exec (.modexp d a b c) s = .next t ∧
    (s.reg c = 0 → Faulted .modZero s t) ∧
    (s.reg c ≠ 0 →
      t.reg d = s.reg a ^ s.reg b % s.reg c ∧ RegsKeptExcept [d] s t ∧ BufKept s t ∧
      t.flags = { s.flags with z := decide (s.reg a ^ s.reg b % s.reg c = 0) } ∧ t.draws = s.draws ∧ Completed s t)

/-! ### Codec laws, RSA, and the host procedures -/

/-- R208: a chunk that PACK packs and UNPACK unpacks at another offset gives the same bytes there, with T = 0. -/
def Obligations.PackThenUnpackRestoresTheChunk : Prop :=
  ∀ (d a b c a' : Reg) (s t u : State), s.buf.wf = true → d ≠ a' → d ≠ b →
    s.reg b ≤ s.config.width / 8 → s.reg a + s.reg b ≤ s.config.bufSize → s.reg a' + s.reg b ≤ s.config.bufSize →
    exec (.pack d a b c) s = .next t → t.err = false → exec (.unpack a' b d) t = .next u →
    (∀ i < s.reg b, u.buf.read (s.reg a' + i) = s.buf.read (s.reg a + i)) ∧ u.flags.t = false

/-- R209: DLEN of the block count and the marker of a payload gives its length back, and every chunk is full but a short last one. -/
def Obligations.DlenInvertsMarker : Prop :=
  ∀ (d x y a b : Reg) (s t : State), y ≠ b → x ≠ y → x ≠ b →
    s.reg b ≠ 0 → s.reg a < 2 ^ s.config.width → exec (.marker y a b) s = .next t →
    (∃ u, exec (.dlen d x y b) (t.setReg x (chunkCount (s.reg a) (s.reg b))) = .next u ∧
      u.reg d = s.reg a ∧ Completed (t.setReg x (chunkCount (s.reg a) (s.reg b))) u) ∧
    (∀ j < chunkCount (s.reg a) (s.reg b),
      chunkLength (s.reg a) (s.reg b) j =
        if j + 1 = chunkCount (s.reg a) (s.reg b) ∧ s.reg a % s.reg b ≠ 0 then s.reg a % s.reg b else s.reg b)

/-- R254: decoding an encoded byte string gives it back, for every length and every block size of at least 1. -/
def Obligations.DecodeInvertsEncode : Prop :=
  ∀ (bytes : List Byte) (k : Nat), 1 ≤ k → decodeBlocks (encodeBlocks bytes k) k = .ok bytes

/-- R255 and R257: with `n` a product of two distinct primes and exponents inverse modulo `(p-1)(q-1)`, decrypting an encrypted byte string
gives it back, for every `n` of at least 256; with a smaller `n` the encryption fails, and so does the decryption of any sequence with a
marker (R255, R284). The name of that error of decryption is the model's choice (log entry 17). -/
def Obligations.DecryptInvertsEncrypt : Prop :=
  ∀ (bytes : List Byte) (p q e d : Nat), Nat.Prime p → Nat.Prime q → p ≠ q →
    e * d % ((p - 1) * (q - 1)) = 1 % ((p - 1) * (q - 1)) →
    (256 ≤ p * q → ∃ values, encryptBlocks bytes e (p * q) = .ok values ∧
      values.length = chunkCount bytes.length (blockSize (p * q)) + 1 ∧ (∀ v ∈ values, v < p * q) ∧
      decryptBlocks values d (p * q) = .ok bytes) ∧
    (p * q < 256 → encryptBlocks bytes e (p * q) = .error .modulusOverflowBlock ∧
      ∀ values, values ≠ [] → decryptBlocks values d (p * q) = .error .modulusOverflowBlock)

/-- R316: on an idle engine the per-command protocol runs exactly the command, whether the host polls, any number of times before the
completion (R323), or takes IRQ with IE = 1: it answers nothing, or the fault's ERRCODE and ERRCMD, and leaves the command's state, with
the status as the completion left it. With IE = 0 a wait for IRQ ends in an error of the model's own (log entry 13). -/
def Obligations.HostCommandRunsTheCommand : Prop :=
  ∀ (wait : Wait) (i : Instr) (s : State), s.config.Legal → s.phase = .idle →
    (wait ≠ .interrupt ∨ s.ie = true →
      ∃ t, exec i { s.accept (encode i) with schedule := [] } = .next t ∧
        ∃ resp, hostCommand wait (encode i) s =
          .ok (if t.err then some { code := t.errcode.setWidth 32, command := encode i } else none,
            { t with response := resp })) ∧
    (wait = .interrupt → s.ie = false → hostCommand wait (encode i) s = .error .noInterrupt)

/-- R252, R255 on the engine: on an idle engine with a key in range, the host procedure computes exactly the reference `encrypt`, for every
payload that fits in BUF, and for every longer one, which it packs in segments, if a chunk fits in BUF. If neither fits, it fails with an
error of the model's own. For `n = 0` it stops with the fault MOD_ZERO of BSIZE (R201). The procedure's registers, the error of its own,
the length of a segment and the case `n = 0` are the model's choice (log entries 13, 16 and 18). -/
def Obligations.EncryptOnEngineComputesEncrypt : Prop :=
  ∀ (bytes : List Byte) (e n : Nat) (s : State), Inv s → s.phase = .idle → e < 2 ^ s.config.width → n < 2 ^ s.config.width →
    bytes.length < 2 ^ s.config.width →
    (n ≠ 0 → bytes.length ≤ s.config.bufSize ∨ blockSize n ≤ s.config.bufSize →
      (encryptOnEngine bytes e n s).map Prod.fst = encryptBlocks bytes e n) ∧
    (s.config.bufSize < bytes.length → s.config.bufSize < blockSize n →
      (encryptOnEngine bytes e n s).map Prod.fst = .error .payloadTooLong) ∧
    (n = 0 → (encryptOnEngine bytes e n s).map Prod.fst =
      .error (.commandFault { code := 0x03, command := encode (.bsize 3 1) }))

/-- R253, R256 on the engine: on an idle engine with a key in range, for values whose decoded bytes fit in BUF, or that do not decode, the
host procedure computes exactly the reference `decrypt`, its errors included. For `n = 0` it stops with the fault MOD_ZERO of BSIZE
(R201). The procedure's registers, the name of the error for a modulus below 256 (R284, D34) and the case `n = 0` are the model's choice
(log entries 13, 17 and 18). -/
def Obligations.DecryptOnEngineComputesDecrypt : Prop :=
  ∀ (values : List Nat) (d n : Nat) (s : State), Inv s → s.phase = .idle → d < 2 ^ s.config.width → n < 2 ^ s.config.width →
    (∀ v ∈ values, v < 2 ^ s.config.width) →
    (n ≠ 0 → (∀ bytes, decryptBlocks values d n = .ok bytes → bytes.length ≤ s.config.bufSize) →
      (decryptOnEngine values d n s).map Prod.fst = decryptBlocks values d n) ∧
    (n = 0 → (decryptOnEngine values d n s).map Prod.fst =
      .error (.commandFault { code := 0x03, command := encode (.bsize 3 1) }))

/-- R250 and R264 on the engine: a key is generated only from budgets and a bit length in their ranges (R8, R260), and it has `n = p * q` for
two distinct values `p`, `q` of at least 2 below `e`, an odd `e` of at most `bitLength` bits below `φ(n) = (p-1)(q-1)` and coprime with
it, and `e * d mod φ(n) = 1`. The procedure's registers are the model's choice (log entry 13). -/
def Obligations.GeneratedKeysMeetTheirInvariants : Prop :=
  ∀ (bitLength maxDraws maxAttempts : Nat) (s t : State) (key : KeyMaterial), Inv s → s.phase = .idle →
    generateOnEngine bitLength maxDraws maxAttempts s = .ok (key, t) →
    1 ≤ maxDraws ∧ 1 ≤ maxAttempts ∧ 2 * bitLength ≤ s.config.width ∧
    ∃ p q, p ≠ q ∧ 2 ≤ p ∧ p < key.e ∧ 2 ≤ q ∧ q < key.e ∧ key.n = p * q ∧
      key.e % 2 = 1 ∧ key.e < 2 ^ bitLength ∧ key.e < (p - 1) * (q - 1) ∧
      Nat.gcd key.e ((p - 1) * (q - 1)) = 1 ∧ key.d < (p - 1) * (q - 1) ∧ key.e * key.d % ((p - 1) * (q - 1)) = 1
end

