-- ==== Sys2Proof/Laws/Memory.lean ====
section
/-! SUPPORT. The laws of BUF: read after write, every write keeps the canonical form and the bound, and what multi-byte reads and writes
give. -/

namespace Sys2Proof.Machine

/-- A higher bound is a weaker condition. -/
theorem Memory.wfFrom_mono {lo hi : Nat} (h : lo ≤ hi) (m : Memory) (hm : Memory.wfFrom hi m = true) :
    Memory.wfFrom lo m = true := by
  cases m with
  | nil => rfl
  | cons e rest =>
    obtain ⟨k, b⟩ := e
    simp only [Memory.wfFrom, Bool.and_eq_true, decide_eq_true_eq] at hm ⊢
    exact ⟨⟨by omega, hm.1.2⟩, hm.2⟩

/-- An offset below the first entry of a canonical list reads 0. -/
theorem Memory.read_of_wfFrom {lo o : Nat} (h : o < lo) (m : Memory) (hm : Memory.wfFrom lo m = true) :
    Memory.read m o = 0 := by
  induction m generalizing lo with
  | nil => rfl
  | cons e rest ih =>
    obtain ⟨k, b⟩ := e
    simp only [Memory.wfFrom, Bool.and_eq_true, decide_eq_true_eq] at hm
    have hk : k ≠ o := by omega
    rw [Memory.read, if_neg hk]
    exact ih (lo := k + 1) (by omega) hm.2

/-- A write leaves every other offset alone, in any list. -/
theorem Memory.read_write_of_ne {a o : Nat} (h : a ≠ o) (m : Memory) (b : Byte) :
    Memory.read (Memory.write m o b) a = Memory.read m a := by
  have ho : o ≠ a := fun e => h e.symm
  induction m with
  | nil =>
    by_cases hb : b = 0#8 <;> simp [Memory.write, Memory.read, hb, ho]
  | cons e rest ih =>
    obtain ⟨k, c⟩ := e
    by_cases hk : k < o
    · rw [Memory.write, if_pos hk, Memory.read, Memory.read, ih]
    · by_cases hko : k = o
      · subst hko
        by_cases hb : b = 0#8 <;> simp [Memory.write, Memory.read, hb, ho]
      · by_cases hb : b = 0#8 <;> simp [Memory.write, Memory.read, hk, hko, hb, ho]

/-- A read after a write to the same offset gives the byte written. -/
theorem Memory.read_write_self (m : Memory) (o lo : Nat) (b : Byte) (hm : Memory.wfFrom lo m = true) :
    Memory.read (Memory.write m o b) o = b := by
  induction m generalizing lo with
  | nil =>
    by_cases hb : b = 0#8 <;> simp [Memory.write, Memory.read, hb]
  | cons e rest ih =>
    obtain ⟨k, c⟩ := e
    simp only [Memory.wfFrom, Bool.and_eq_true, decide_eq_true_eq] at hm
    by_cases hk : k < o
    · have hne : k ≠ o := by omega
      simpa [Memory.write, Memory.read, hk, hne] using ih (k + 1) hm.2
    · by_cases hko : k = o
      · subst hko
        by_cases hb : b = 0#8
        · subst hb
          simpa [Memory.write] using Memory.read_of_wfFrom (Nat.lt_succ_self k) rest hm.2
        · simp [Memory.write, Memory.read, hb]
      · by_cases hb : b = 0#8
        · subst hb
          simpa [Memory.write, Memory.read, hk, hko] using
            Memory.read_of_wfFrom (show o < k + 1 by omega) rest hm.2
        · simp [Memory.write, Memory.read, hk, hko, hb]

/-- The whole read-after-write law of a canonical BUF. -/
theorem Memory.read_write (m : Memory) (o a : Nat) (b : Byte) (hm : m.wf = true) :
    (m.write o b).read a = if a = o then b else m.read a := by
  by_cases h : a = o
  · subst h
    simpa using Memory.read_write_self m a 0 b hm
  · simpa [h] using Memory.read_write_of_ne h m b

/-- A write keeps the canonical form above any bound at or below its offset. -/
theorem Memory.wfFrom_write (m : Memory) (o lo : Nat) (b : Byte) (ho : lo ≤ o) (hm : Memory.wfFrom lo m = true) :
    Memory.wfFrom lo (Memory.write m o b) = true := by
  induction m generalizing lo with
  | nil => by_cases hb : b = 0#8 <;> simp [Memory.write, Memory.wfFrom, hb, ho]
  | cons e rest ih =>
    obtain ⟨k, c⟩ := e
    have hm' := hm
    simp only [Memory.wfFrom, Bool.and_eq_true, decide_eq_true_eq] at hm
    have hc : ¬ c = 0#8 := hm.1.2
    by_cases hk : k < o
    · simp [Memory.write, hk, Memory.wfFrom, hm.1.1, hc, ih (k + 1) (by omega) hm.2]
    · by_cases hko : k = o
      · subst hko
        by_cases hb : b = 0#8
        · simpa [Memory.write, hb] using Memory.wfFrom_mono (by omega) rest hm.2
        · simp [Memory.write, hb, Memory.wfFrom, ho, hm.2]
      · by_cases hb : b = 0#8
        · simpa [Memory.write, hk, hko, hb] using hm'
        · simp [Memory.write, hk, hko, hb, Memory.wfFrom, ho, hc, hm.2, show o + 1 ≤ k by omega]

/-- A write keeps the canonical form. -/
theorem Memory.wf_write (m : Memory) (o : Nat) (b : Byte) (hm : m.wf = true) : (m.write o b).wf = true :=
  Memory.wfFrom_write m o 0 b (Nat.zero_le o) hm

/-- A write at an offset below `n` lists no offset at `n` or above. -/
theorem Memory.below_write (n : Nat) (m : Memory) (o : Nat) (b : Byte) (ho : o < n) (hm : m.below n = true) :
    (m.write o b).below n = true := by
  induction m with
  | nil => by_cases hb : b = 0#8 <;> simp [Memory.write, Memory.below, hb, ho]
  | cons e rest ih =>
    obtain ⟨k, c⟩ := e
    simp only [Memory.below, List.all_cons, Bool.and_eq_true, decide_eq_true_eq] at hm ih ⊢
    by_cases hk : k < o
    · simpa [Memory.write, hk, hm.1] using ih hm.2
    · by_cases hko : k = o
      · subst hko
        by_cases hb : b = 0#8
        · simpa [Memory.write, hb] using hm.2
        · simpa [Memory.write, hb, ho] using hm.2
      · by_cases hb : b = 0#8
        · simpa [Memory.write, hk, hko, hb, hm.1] using hm.2
        · simpa [Memory.write, hk, hko, hb, ho, hm.1] using hm.2

/-- `MemWrite` keeps the canonical form. -/
theorem memWrite_wf (m : Memory) (o v n : Nat) (hm : m.wf = true) : (memWrite m o v n).wf = true := by
  induction n with
  | zero => exact hm
  | succ n ih => exact Memory.wf_write _ _ _ ih

/-- `MemWrite` inside BUF stays inside BUF. -/
theorem memWrite_below (size : Nat) (m : Memory) (o v n : Nat) (h : o + n ≤ size) (hm : m.below size = true) :
    (memWrite m o v n).below size = true := by
  induction n with
  | zero => exact hm
  | succ n ih => exact Memory.below_write size _ _ _ (by omega) (ih (by omega))

/-- What every offset reads after `MemWrite(o, n, v)`. -/
theorem memWrite_read (m : Memory) (o v n a : Nat) (hm : m.wf = true) :
    Memory.read (memWrite m o v n) a =
      if o ≤ a ∧ a < o + n then BitVec.ofNat 8 (v / 256 ^ (a - o) % 256) else m.read a := by
  induction n with
  | zero => simp [memWrite, show ¬ (o ≤ a ∧ a < o) by omega]
  | succ n ih =>
    rw [memWrite, Memory.read_write _ _ _ _ (memWrite_wf m o v n hm), ih]
    by_cases h : a = o + n
    · subst h
      simp
    · by_cases h2 : o ≤ a ∧ a < o + n
      · simp [h, h2, show o ≤ a ∧ a < o + (n + 1) by omega]
      · simp [h, h2, show ¬ (o ≤ a ∧ a < o + (n + 1)) by omega]

/-- `MemRead(o, n)` is below `256**n`. -/
theorem memRead_lt (m : Memory) (o n : Nat) : memRead m o n < 256 ^ n := by
  induction n with
  | zero => simp [memRead]
  | succ n ih =>
    have hb : (m.read (o + n)).toNat < 256 := (m.read (o + n)).isLt
    have : (m.read (o + n)).toNat * 256 ^ n ≤ 255 * 256 ^ n := Nat.mul_le_mul_right _ (by omega)
    rw [memRead, pow_succ]
    omega

/-- A host write of the buffer window keeps the canonical form. -/
theorem writeBufBytes_wf (size : Nat) (m : Memory) (o v n : Nat) (hm : m.wf = true) :
    (writeBufBytes size m o v n).wf = true := by
  induction n with
  | zero => exact hm
  | succ n ih =>
    rw [writeBufBytes]
    split
    · exact Memory.wf_write _ _ _ ih
    · exact ih

/-- A host write of the buffer window never lists a byte at BUFSZ or above. -/
theorem writeBufBytes_below (size : Nat) (m : Memory) (o v n : Nat) (hm : m.below size = true) :
    (writeBufBytes size m o v n).below size = true := by
  induction n with
  | zero => exact hm
  | succ n ih =>
    rw [writeBufBytes]
    split
    · next h => exact Memory.below_write size _ _ _ h ih
    · exact ih

/-- The memory after reset is canonical and within BUF. -/
theorem State.resetOf_buf_wf (c : Config) : (State.resetOf c).buf.wf = true ∧ (State.resetOf c).buf.below c.bufSize = true :=
  ⟨rfl, rfl⟩

end Sys2Proof.Machine
end

