-- ==== Sys2Proof/Laws/State.lean ====
section
/-! SUPPORT. What each update of the state does to each of its fields, one lemma per field, so that no proof unfolds a record update. -/

namespace Sys2Proof.Machine

/-! ### setReg -/

@[simp] theorem State.setReg_config (s : State) (r : Reg) (v : Nat) : (s.setReg r v).config = s.config := rfl
@[simp] theorem State.setReg_regs (s : State) (r : Reg) (v : Nat) : (s.setReg r v).regs = s.regs.set r v := rfl
@[simp] theorem State.setReg_buf (s : State) (r : Reg) (v : Nat) : (s.setReg r v).buf = s.buf := rfl
@[simp] theorem State.setReg_flags (s : State) (r : Reg) (v : Nat) : (s.setReg r v).flags = s.flags := rfl
@[simp] theorem State.setReg_ie (s : State) (r : Reg) (v : Nat) : (s.setReg r v).ie = s.ie := rfl
@[simp] theorem State.setReg_done (s : State) (r : Reg) (v : Nat) : (s.setReg r v).done = s.done := rfl
@[simp] theorem State.setReg_err (s : State) (r : Reg) (v : Nat) : (s.setReg r v).err = s.err := rfl
@[simp] theorem State.setReg_ovr (s : State) (r : Reg) (v : Nat) : (s.setReg r v).ovr = s.ovr := rfl
@[simp] theorem State.setReg_errcode (s : State) (r : Reg) (v : Nat) : (s.setReg r v).errcode = s.errcode := rfl
@[simp] theorem State.setReg_errcmd (s : State) (r : Reg) (v : Nat) : (s.setReg r v).errcmd = s.errcmd := rfl
@[simp] theorem State.setReg_latch (s : State) (r : Reg) (v : Nat) : (s.setReg r v).latch = s.latch := rfl
@[simp] theorem State.setReg_phase (s : State) (r : Reg) (v : Nat) : (s.setReg r v).phase = s.phase := rfl
@[simp] theorem State.setReg_draws (s : State) (r : Reg) (v : Nat) : (s.setReg r v).draws = s.draws := rfl
@[simp] theorem State.setReg_busyReads (s : State) (r : Reg) (v : Nat) : (s.setReg r v).busyReads = s.busyReads := rfl
@[simp] theorem State.setReg_schedule (s : State) (r : Reg) (v : Nat) : (s.setReg r v).schedule = s.schedule := rfl
@[simp] theorem State.setReg_response (s : State) (r : Reg) (v : Nat) : (s.setReg r v).response = s.response := rfl

/-! ### setFlags -/

@[simp] theorem State.setFlags_config (s : State) (f : Flags) : (s.setFlags f).config = s.config := rfl
@[simp] theorem State.setFlags_regs (s : State) (f : Flags) : (s.setFlags f).regs = s.regs := rfl
@[simp] theorem State.setFlags_buf (s : State) (f : Flags) : (s.setFlags f).buf = s.buf := rfl
@[simp] theorem State.setFlags_flags (s : State) (f : Flags) : (s.setFlags f).flags = f := rfl
@[simp] theorem State.setFlags_ie (s : State) (f : Flags) : (s.setFlags f).ie = s.ie := rfl
@[simp] theorem State.setFlags_done (s : State) (f : Flags) : (s.setFlags f).done = s.done := rfl
@[simp] theorem State.setFlags_err (s : State) (f : Flags) : (s.setFlags f).err = s.err := rfl
@[simp] theorem State.setFlags_ovr (s : State) (f : Flags) : (s.setFlags f).ovr = s.ovr := rfl
@[simp] theorem State.setFlags_errcode (s : State) (f : Flags) : (s.setFlags f).errcode = s.errcode := rfl
@[simp] theorem State.setFlags_errcmd (s : State) (f : Flags) : (s.setFlags f).errcmd = s.errcmd := rfl
@[simp] theorem State.setFlags_latch (s : State) (f : Flags) : (s.setFlags f).latch = s.latch := rfl
@[simp] theorem State.setFlags_phase (s : State) (f : Flags) : (s.setFlags f).phase = s.phase := rfl
@[simp] theorem State.setFlags_draws (s : State) (f : Flags) : (s.setFlags f).draws = s.draws := rfl
@[simp] theorem State.setFlags_busyReads (s : State) (f : Flags) : (s.setFlags f).busyReads = s.busyReads := rfl
@[simp] theorem State.setFlags_schedule (s : State) (f : Flags) : (s.setFlags f).schedule = s.schedule := rfl
@[simp] theorem State.setFlags_response (s : State) (f : Flags) : (s.setFlags f).response = s.response := rfl

/-! ### setBuf -/

@[simp] theorem State.setBuf_config (s : State) (m : Memory) : (s.setBuf m).config = s.config := rfl
@[simp] theorem State.setBuf_regs (s : State) (m : Memory) : (s.setBuf m).regs = s.regs := rfl
@[simp] theorem State.setBuf_buf (s : State) (m : Memory) : (s.setBuf m).buf = m := rfl
@[simp] theorem State.setBuf_flags (s : State) (m : Memory) : (s.setBuf m).flags = s.flags := rfl
@[simp] theorem State.setBuf_ie (s : State) (m : Memory) : (s.setBuf m).ie = s.ie := rfl
@[simp] theorem State.setBuf_done (s : State) (m : Memory) : (s.setBuf m).done = s.done := rfl
@[simp] theorem State.setBuf_err (s : State) (m : Memory) : (s.setBuf m).err = s.err := rfl
@[simp] theorem State.setBuf_ovr (s : State) (m : Memory) : (s.setBuf m).ovr = s.ovr := rfl
@[simp] theorem State.setBuf_errcode (s : State) (m : Memory) : (s.setBuf m).errcode = s.errcode := rfl
@[simp] theorem State.setBuf_errcmd (s : State) (m : Memory) : (s.setBuf m).errcmd = s.errcmd := rfl
@[simp] theorem State.setBuf_latch (s : State) (m : Memory) : (s.setBuf m).latch = s.latch := rfl
@[simp] theorem State.setBuf_phase (s : State) (m : Memory) : (s.setBuf m).phase = s.phase := rfl
@[simp] theorem State.setBuf_draws (s : State) (m : Memory) : (s.setBuf m).draws = s.draws := rfl
@[simp] theorem State.setBuf_busyReads (s : State) (m : Memory) : (s.setBuf m).busyReads = s.busyReads := rfl
@[simp] theorem State.setBuf_schedule (s : State) (m : Memory) : (s.setBuf m).schedule = s.schedule := rfl
@[simp] theorem State.setBuf_response (s : State) (m : Memory) : (s.setBuf m).response = s.response := rfl

/-! ### setDraws -/

@[simp] theorem State.setDraws_config (s : State) (d : FreeStream) : (s.setDraws d).config = s.config := rfl
@[simp] theorem State.setDraws_regs (s : State) (d : FreeStream) : (s.setDraws d).regs = s.regs := rfl
@[simp] theorem State.setDraws_buf (s : State) (d : FreeStream) : (s.setDraws d).buf = s.buf := rfl
@[simp] theorem State.setDraws_flags (s : State) (d : FreeStream) : (s.setDraws d).flags = s.flags := rfl
@[simp] theorem State.setDraws_ie (s : State) (d : FreeStream) : (s.setDraws d).ie = s.ie := rfl
@[simp] theorem State.setDraws_done (s : State) (d : FreeStream) : (s.setDraws d).done = s.done := rfl
@[simp] theorem State.setDraws_err (s : State) (d : FreeStream) : (s.setDraws d).err = s.err := rfl
@[simp] theorem State.setDraws_ovr (s : State) (d : FreeStream) : (s.setDraws d).ovr = s.ovr := rfl
@[simp] theorem State.setDraws_errcode (s : State) (d : FreeStream) : (s.setDraws d).errcode = s.errcode := rfl
@[simp] theorem State.setDraws_errcmd (s : State) (d : FreeStream) : (s.setDraws d).errcmd = s.errcmd := rfl
@[simp] theorem State.setDraws_latch (s : State) (d : FreeStream) : (s.setDraws d).latch = s.latch := rfl
@[simp] theorem State.setDraws_phase (s : State) (d : FreeStream) : (s.setDraws d).phase = s.phase := rfl
@[simp] theorem State.setDraws_draws (s : State) (d : FreeStream) : (s.setDraws d).draws = d := rfl
@[simp] theorem State.setDraws_busyReads (s : State) (d : FreeStream) : (s.setDraws d).busyReads = s.busyReads := rfl
@[simp] theorem State.setDraws_schedule (s : State) (d : FreeStream) : (s.setDraws d).schedule = s.schedule := rfl
@[simp] theorem State.setDraws_response (s : State) (d : FreeStream) : (s.setDraws d).response = s.response := rfl

/-! ### accept -/

@[simp] theorem State.accept_config (s : State) (w : Word) : (s.accept w).config = s.config := rfl
@[simp] theorem State.accept_regs (s : State) (w : Word) : (s.accept w).regs = s.regs := rfl
@[simp] theorem State.accept_buf (s : State) (w : Word) : (s.accept w).buf = s.buf := rfl
@[simp] theorem State.accept_flags (s : State) (w : Word) : (s.accept w).flags = s.flags := rfl
@[simp] theorem State.accept_ie (s : State) (w : Word) : (s.accept w).ie = s.ie := rfl
@[simp] theorem State.accept_done (s : State) (w : Word) : (s.accept w).done = false := rfl
@[simp] theorem State.accept_err (s : State) (w : Word) : (s.accept w).err = false := rfl
@[simp] theorem State.accept_ovr (s : State) (w : Word) : (s.accept w).ovr = s.ovr := rfl
@[simp] theorem State.accept_errcode (s : State) (w : Word) : (s.accept w).errcode = 0 := rfl
@[simp] theorem State.accept_errcmd (s : State) (w : Word) : (s.accept w).errcmd = s.errcmd := rfl
@[simp] theorem State.accept_latch (s : State) (w : Word) : (s.accept w).latch = w := rfl
@[simp] theorem State.accept_phase (s : State) (w : Word) : (s.accept w).phase = .exec := rfl
@[simp] theorem State.accept_draws (s : State) (w : Word) : (s.accept w).draws = s.draws := rfl
@[simp] theorem State.accept_busyReads (s : State) (w : Word) : (s.accept w).busyReads = s.busyReads := rfl
@[simp] theorem State.accept_schedule (s : State) (w : Word) : (s.accept w).schedule = s.schedule := rfl
@[simp] theorem State.accept_response (s : State) (w : Word) : (s.accept w).response = s.response := rfl

/-! ### finish -/

@[simp] theorem State.finish_config (s : State) : s.finish.config = s.config := rfl
@[simp] theorem State.finish_regs (s : State) : s.finish.regs = s.regs := rfl
@[simp] theorem State.finish_buf (s : State) : s.finish.buf = s.buf := rfl
@[simp] theorem State.finish_flags (s : State) : s.finish.flags = s.flags := rfl
@[simp] theorem State.finish_ie (s : State) : s.finish.ie = s.ie := rfl
@[simp] theorem State.finish_done (s : State) : s.finish.done = true := rfl
@[simp] theorem State.finish_err (s : State) : s.finish.err = s.err := rfl
@[simp] theorem State.finish_ovr (s : State) : s.finish.ovr = s.ovr := rfl
@[simp] theorem State.finish_errcode (s : State) : s.finish.errcode = s.errcode := rfl
@[simp] theorem State.finish_errcmd (s : State) : s.finish.errcmd = s.errcmd := rfl
@[simp] theorem State.finish_latch (s : State) : s.finish.latch = s.latch := rfl
@[simp] theorem State.finish_phase (s : State) : s.finish.phase = .idle := rfl
@[simp] theorem State.finish_draws (s : State) : s.finish.draws = s.draws := rfl
@[simp] theorem State.finish_busyReads (s : State) : s.finish.busyReads = s.busyReads := rfl
@[simp] theorem State.finish_schedule (s : State) : s.finish.schedule = s.schedule := rfl
@[simp] theorem State.finish_response (s : State) : s.finish.response = s.response := rfl

/-! ### recordFault -/

@[simp] theorem State.recordFault_config (s : State) (code : FaultCode) : (s.recordFault code).config = s.config := rfl
@[simp] theorem State.recordFault_regs (s : State) (code : FaultCode) : (s.recordFault code).regs = s.regs := rfl
@[simp] theorem State.recordFault_buf (s : State) (code : FaultCode) : (s.recordFault code).buf = s.buf := rfl
@[simp] theorem State.recordFault_flags (s : State) (code : FaultCode) : (s.recordFault code).flags = s.flags := rfl
@[simp] theorem State.recordFault_ie (s : State) (code : FaultCode) : (s.recordFault code).ie = s.ie := rfl
@[simp] theorem State.recordFault_done (s : State) (code : FaultCode) : (s.recordFault code).done = s.done := rfl
@[simp] theorem State.recordFault_err (s : State) (code : FaultCode) : (s.recordFault code).err = true := rfl
@[simp] theorem State.recordFault_ovr (s : State) (code : FaultCode) : (s.recordFault code).ovr = s.ovr := rfl
@[simp] theorem State.recordFault_errcode (s : State) (code : FaultCode) : (s.recordFault code).errcode = code.byte := rfl
@[simp] theorem State.recordFault_errcmd (s : State) (code : FaultCode) : (s.recordFault code).errcmd = s.latch := rfl
@[simp] theorem State.recordFault_latch (s : State) (code : FaultCode) : (s.recordFault code).latch = s.latch := rfl
@[simp] theorem State.recordFault_phase (s : State) (code : FaultCode) : (s.recordFault code).phase = s.phase := rfl
@[simp] theorem State.recordFault_draws (s : State) (code : FaultCode) : (s.recordFault code).draws = s.draws := rfl
@[simp] theorem State.recordFault_busyReads (s : State) (code : FaultCode) : (s.recordFault code).busyReads = s.busyReads := rfl
@[simp] theorem State.recordFault_schedule (s : State) (code : FaultCode) : (s.recordFault code).schedule = s.schedule := rfl
@[simp] theorem State.recordFault_response (s : State) (code : FaultCode) : (s.recordFault code).response = s.response := rfl

/-! ### resetEntry -/

@[simp] theorem State.resetEntry_config (s : State) : s.resetEntry.config = s.config := rfl
@[simp] theorem State.resetEntry_regs (s : State) : s.resetEntry.regs = s.regs := rfl
@[simp] theorem State.resetEntry_buf (s : State) : s.resetEntry.buf = s.buf := rfl
@[simp] theorem State.resetEntry_flags (s : State) : s.resetEntry.flags = s.flags := rfl
@[simp] theorem State.resetEntry_ie (s : State) : s.resetEntry.ie = false := rfl
@[simp] theorem State.resetEntry_done (s : State) : s.resetEntry.done = false := rfl
@[simp] theorem State.resetEntry_err (s : State) : s.resetEntry.err = false := rfl
@[simp] theorem State.resetEntry_ovr (s : State) : s.resetEntry.ovr = false := rfl
@[simp] theorem State.resetEntry_errcode (s : State) : s.resetEntry.errcode = 0 := rfl
@[simp] theorem State.resetEntry_errcmd (s : State) : s.resetEntry.errcmd = 0 := rfl
@[simp] theorem State.resetEntry_latch (s : State) : s.resetEntry.latch = 0 := rfl
@[simp] theorem State.resetEntry_phase (s : State) : s.resetEntry.phase = .zeroise := rfl
@[simp] theorem State.resetEntry_draws (s : State) : s.resetEntry.draws = s.draws := rfl
@[simp] theorem State.resetEntry_busyReads (s : State) : s.resetEntry.busyReads = s.busyReads := rfl
@[simp] theorem State.resetEntry_schedule (s : State) : s.resetEntry.schedule = s.schedule := rfl
@[simp] theorem State.resetEntry_response (s : State) : s.resetEntry.response = s.response := rfl

/-! ### zeroiseAll -/

@[simp] theorem State.zeroiseAll_config (s : State) : s.zeroiseAll.config = s.config := rfl
@[simp] theorem State.zeroiseAll_regs (s : State) : s.zeroiseAll.regs = Vector.replicate 16 0 := rfl
@[simp] theorem State.zeroiseAll_buf (s : State) : s.zeroiseAll.buf = [] := rfl
@[simp] theorem State.zeroiseAll_flags (s : State) : s.zeroiseAll.flags = Flags.zero := rfl
@[simp] theorem State.zeroiseAll_ie (s : State) : s.zeroiseAll.ie = s.ie := rfl
@[simp] theorem State.zeroiseAll_done (s : State) : s.zeroiseAll.done = s.done := rfl
@[simp] theorem State.zeroiseAll_err (s : State) : s.zeroiseAll.err = s.err := rfl
@[simp] theorem State.zeroiseAll_ovr (s : State) : s.zeroiseAll.ovr = s.ovr := rfl
@[simp] theorem State.zeroiseAll_errcode (s : State) : s.zeroiseAll.errcode = s.errcode := rfl
@[simp] theorem State.zeroiseAll_errcmd (s : State) : s.zeroiseAll.errcmd = s.errcmd := rfl
@[simp] theorem State.zeroiseAll_latch (s : State) : s.zeroiseAll.latch = s.latch := rfl
@[simp] theorem State.zeroiseAll_phase (s : State) : s.zeroiseAll.phase = .idle := rfl
@[simp] theorem State.zeroiseAll_draws (s : State) : s.zeroiseAll.draws = s.draws := rfl
@[simp] theorem State.zeroiseAll_busyReads (s : State) : s.zeroiseAll.busyReads = s.busyReads := rfl
@[simp] theorem State.zeroiseAll_schedule (s : State) : s.zeroiseAll.schedule = s.schedule := rfl
@[simp] theorem State.zeroiseAll_response (s : State) : s.zeroiseAll.response = s.response := rfl

/-! ### overrun -/

@[simp] theorem State.overrun_config (s : State) : s.overrun.config = s.config := rfl
@[simp] theorem State.overrun_regs (s : State) : s.overrun.regs = s.regs := rfl
@[simp] theorem State.overrun_buf (s : State) : s.overrun.buf = s.buf := rfl
@[simp] theorem State.overrun_flags (s : State) : s.overrun.flags = s.flags := rfl
@[simp] theorem State.overrun_ie (s : State) : s.overrun.ie = s.ie := rfl
@[simp] theorem State.overrun_done (s : State) : s.overrun.done = s.done := rfl
@[simp] theorem State.overrun_err (s : State) : s.overrun.err = s.err := rfl
@[simp] theorem State.overrun_ovr (s : State) : s.overrun.ovr = true := rfl
@[simp] theorem State.overrun_errcode (s : State) : s.overrun.errcode = s.errcode := rfl
@[simp] theorem State.overrun_errcmd (s : State) : s.overrun.errcmd = s.errcmd := rfl
@[simp] theorem State.overrun_latch (s : State) : s.overrun.latch = s.latch := rfl
@[simp] theorem State.overrun_phase (s : State) : s.overrun.phase = s.phase := rfl
@[simp] theorem State.overrun_draws (s : State) : s.overrun.draws = s.draws := rfl
@[simp] theorem State.overrun_busyReads (s : State) : s.overrun.busyReads = s.busyReads := rfl
@[simp] theorem State.overrun_schedule (s : State) : s.overrun.schedule = s.schedule := rfl
@[simp] theorem State.overrun_response (s : State) : s.overrun.response = s.response := rfl

/-! ### respond -/

@[simp] theorem State.respond_config (s : State) (r : BusResponse) : (s.respond r).config = s.config := rfl
@[simp] theorem State.respond_regs (s : State) (r : BusResponse) : (s.respond r).regs = s.regs := rfl
@[simp] theorem State.respond_buf (s : State) (r : BusResponse) : (s.respond r).buf = s.buf := rfl
@[simp] theorem State.respond_flags (s : State) (r : BusResponse) : (s.respond r).flags = s.flags := rfl
@[simp] theorem State.respond_ie (s : State) (r : BusResponse) : (s.respond r).ie = s.ie := rfl
@[simp] theorem State.respond_done (s : State) (r : BusResponse) : (s.respond r).done = s.done := rfl
@[simp] theorem State.respond_err (s : State) (r : BusResponse) : (s.respond r).err = s.err := rfl
@[simp] theorem State.respond_ovr (s : State) (r : BusResponse) : (s.respond r).ovr = s.ovr := rfl
@[simp] theorem State.respond_errcode (s : State) (r : BusResponse) : (s.respond r).errcode = s.errcode := rfl
@[simp] theorem State.respond_errcmd (s : State) (r : BusResponse) : (s.respond r).errcmd = s.errcmd := rfl
@[simp] theorem State.respond_latch (s : State) (r : BusResponse) : (s.respond r).latch = s.latch := rfl
@[simp] theorem State.respond_phase (s : State) (r : BusResponse) : (s.respond r).phase = s.phase := rfl
@[simp] theorem State.respond_draws (s : State) (r : BusResponse) : (s.respond r).draws = s.draws := rfl
@[simp] theorem State.respond_busyReads (s : State) (r : BusResponse) : (s.respond r).busyReads = s.busyReads := rfl
@[simp] theorem State.respond_schedule (s : State) (r : BusResponse) : (s.respond r).schedule = s.schedule := rfl
@[simp] theorem State.respond_response (s : State) (r : BusResponse) : (s.respond r).response = some r := rfl

/-! ### Registers and the derived outputs -/

@[simp] theorem State.reg_setReg (s : State) (d r : Reg) (v : Nat) :
    (s.setReg d v).reg r = if r = d then v else s.reg r := by
  simp [State.reg, State.setReg, Vector.getElem_set, Fin.ext_iff, eq_comm]

@[simp] theorem State.reg_setFlags (s : State) (f : Flags) (i : Reg) : (s.setFlags f).reg i = s.reg i := rfl
@[simp] theorem State.reg_setBuf (s : State) (m : Memory) (i : Reg) : (s.setBuf m).reg i = s.reg i := rfl
@[simp] theorem State.reg_setDraws (s : State) (d : FreeStream) (i : Reg) : (s.setDraws d).reg i = s.reg i := rfl
@[simp] theorem State.reg_accept (s : State) (w : Word) (i : Reg) : (s.accept w).reg i = s.reg i := rfl
@[simp] theorem State.reg_finish (s : State) (i : Reg) : s.finish.reg i = s.reg i := rfl
@[simp] theorem State.reg_recordFault (s : State) (code : FaultCode) (i : Reg) : (s.recordFault code).reg i = s.reg i := rfl
@[simp] theorem State.reg_resetEntry (s : State) (i : Reg) : s.resetEntry.reg i = s.reg i := rfl
@[simp] theorem State.reg_overrun (s : State) (i : Reg) : s.overrun.reg i = s.reg i := rfl
@[simp] theorem State.reg_respond (s : State) (r : BusResponse) (i : Reg) : (s.respond r).reg i = s.reg i := rfl

@[simp] theorem State.reg_zeroiseAll (s : State) (i : Reg) : s.zeroiseAll.reg i = 0 := by
  simp [State.reg, State.zeroiseAll]

@[simp] theorem State.reg_resetOf (c : Config) (i : Reg) : (State.resetOf c).reg i = 0 := by
  simp [State.reg, State.resetOf]

@[simp] theorem State.width_setReg (s : State) (r : Reg) (v : Nat) : (s.setReg r v).width = s.width := rfl
@[simp] theorem State.width_setFlags (s : State) (f : Flags) : (s.setFlags f).width = s.width := rfl
@[simp] theorem State.width_setBuf (s : State) (m : Memory) : (s.setBuf m).width = s.width := rfl
@[simp] theorem State.width_setDraws (s : State) (d : FreeStream) : (s.setDraws d).width = s.width := rfl
@[simp] theorem State.width_accept (s : State) (w : Word) : (s.accept w).width = s.width := rfl
@[simp] theorem State.width_finish (s : State) : s.finish.width = s.width := rfl
@[simp] theorem State.width_recordFault (s : State) (code : FaultCode) : (s.recordFault code).width = s.width := rfl
@[simp] theorem State.width_resetEntry (s : State) : s.resetEntry.width = s.width := rfl
@[simp] theorem State.width_zeroiseAll (s : State) : s.zeroiseAll.width = s.width := rfl
@[simp] theorem State.width_overrun (s : State) : s.overrun.width = s.width := rfl
@[simp] theorem State.width_respond (s : State) (r : BusResponse) : (s.respond r).width = s.width := rfl

theorem State.busy_iff (s : State) : s.busy = true ↔ s.phase ≠ .idle := by simp [State.busy]

theorem State.idle_iff (s : State) : s.busy = false ↔ s.phase = .idle := by simp [State.busy]

end Sys2Proof.Machine
end

