-- ==== Sys2Proof/Laws/Ops.lean ====
section
/-! SUPPORT. One law per shared operation: what a completion and a fault leave, what the free-value streams give, and what the operand
and window operations answer. A proof cites these and does not unfold the operations. -/

namespace Sys2Proof.Machine

/-! ### Completion -/

/-- The only outcome of a completion. -/
theorem complete_next {s t : State} : complete s = .next t ↔ t = s.finish := by
  simp [complete, eq_comm]

/-- A completion whose writes are to registers, BUF, flags and the random source leaves the control state as R282 says. -/
theorem completed_finish (s : State) (regs : Vector Nat 16) (buf : Memory) (flags : Flags) (draws : FreeStream) :
    Completed s { s with regs := regs, buf := buf, flags := flags, draws := draws }.finish :=
  { config := rfl, ie := rfl, ovr := rfl, latch := rfl, busyReads := rfl, schedule := rfl, response := rfl
    done := rfl, idle := rfl, err := rfl, errcode := rfl, errcmd := rfl }

/-- A fault leaves the record of R283 and nothing else. -/
theorem faulted_finish (code : FaultCode) (s : State) : Faulted code s (s.recordFault code).finish :=
  { config := rfl, ie := rfl, ovr := rfl, latch := rfl, busyReads := rfl, schedule := rfl, response := rfl
    done := rfl, idle := rfl, err := rfl, errcode := rfl, errcmd := rfl
    regs := fun _ => rfl, buf := fun _ => rfl, flags := rfl, draws := rfl }

/-- The only outcome of a fault. -/
theorem raiseFault_next {code : FaultCode} {s t : State} :
    raiseFault code s = .next t ↔ t = (s.recordFault code).finish := by
  simp [raiseFault, eq_comm]

/-- No fault has the code 0 of "no fault", and every code is at most 0x0A (R284). -/
theorem FaultCode.byte_range (code : FaultCode) : code.byte ≠ 0 ∧ code.byte.toNat ≤ 0x0A := by
  cases code <;> decide

/-- Two faults have two codes (R284). -/
theorem FaultCode.byte_injective {a b : FaultCode} (h : a.byte = b.byte) : a = b := by
  revert h
  cases a <;> cases b <;> decide

/-- A write of one register keeps the others. -/
theorem regsKept_setReg (s : State) (d : Reg) (v : Nat) : RegsKeptExcept [d] s (s.setReg d v) := by
  intro r hr
  simp [List.mem_singleton.not.mp hr]

/-! ### Free values -/

/-- Taking a free value gives the next one and moves the stream by one. -/
theorem FreeStream.take_eq (free : Nat → Nat) (st : FreeStream) : st.take free = (st.nth free 0, st.advance 1) := by
  obtain ⟨supplied, taken⟩ := st
  cases supplied <;> rfl

/-- Moving on twice is moving on by the sum. -/
theorem FreeStream.advance_advance (st : FreeStream) (m n : Nat) : (st.advance m).advance n = st.advance (m + n) := by
  simp [FreeStream.advance, Nat.add_assoc]

/-- Moving on by nothing. -/
@[simp] theorem FreeStream.advance_zero (st : FreeStream) : st.advance 0 = st := by
  simp [FreeStream.advance]

/-- The values of a stream that has moved on. -/
theorem FreeStream.nth_advance (free : Nat → Nat) (st : FreeStream) (m n : Nat) :
    (st.advance m).nth free n = st.nth free (m + n) := by
  simp [FreeStream.nth, FreeStream.advance, Nat.add_assoc]

/-- A free value stands for an element of its set. -/
theorem elementOf_mem (lo n v : Nat) (h : n ≠ 0) : lo ≤ elementOf lo n v ∧ elementOf lo n v < lo + n := by
  unfold elementOf
  split
  · assumption
  · exact ⟨Nat.le_add_right _ _, Nat.add_lt_add_left (Nat.mod_lt _ (Nat.pos_of_ne_zero h)) _⟩

/-- Every element of the set is possible: it stands for itself. -/
theorem elementOf_of_mem {lo n v : Nat} (h : lo ≤ v ∧ v < lo + n) : elementOf lo n v = v := if_pos h

/-- A draw: the element the next free value stands for, and one value taken (R190). -/
theorem draw_eq (lo n : Nat) (st : FreeStream) :
    draw lo n st = (elementOf lo n (st.nth Config.freeDraw 0), st.advance 1) := by
  simp [draw, FreeStream.take_eq]

/-! ### Operands -/

/-- `trunc_W` is in range. -/
theorem truncW_lt (W v : Nat) : truncW W v < 2 ^ W := Nat.mod_lt _ (Nat.two_pow_pos W)

/-- `trunc_W` of an integer, as an integer. -/
theorem truncIntW_cast (W : Nat) (v : Int) : (truncIntW W v : Int) = v % 2 ^ W := by
  have h : (0 : Int) < 2 ^ W := by positivity
  simp [truncIntW, Int.toNat_of_nonneg (Int.emod_nonneg v h.ne')]

/-- `trunc_W` of an integer is in range. -/
theorem truncIntW_lt (W : Nat) (v : Int) : truncIntW W v < 2 ^ W := by
  have h : (0 : Int) < 2 ^ W := by positivity
  have := Int.emod_lt_of_pos v h
  have := truncIntW_cast W v
  zify
  omega

/-- The bounds that define the bit length of a nonzero number (R11). -/
theorem bitlen_bounds {v : Nat} (h : v ≠ 0) : 1 ≤ bitlen v ∧ 2 ^ (bitlen v - 1) ≤ v ∧ v < 2 ^ bitlen v := by
  rw [bitlen, if_neg h]
  exact ⟨by omega, Nat.log2_self_le h, Nat.lt_log2_self⟩

/-- The range check of a BUF operand (R203, R205). -/
theorem bufRangeBad_iff (s : State) (offset count : Nat) :
    s.bufRangeBad offset count = true ↔ count > s.config.width / 8 ∨ offset + count > s.config.bufSize := by
  simp [State.bufRangeBad, State.width]

/-! ### Shifts -/

/-- A left shift always completes. -/
theorem shiftLeftBy_next (d a : Reg) (count : Nat) (s : State) :
    shiftLeftBy d a count s =
      .next ((s.setReg d (truncW s.width (shiftLeftExact s.width (s.reg a) count))).setFlags
        (s.flags.ofLoss s.width (shiftLeftExact s.width (s.reg a) count))).finish := rfl

/-- A right shift always completes. -/
theorem shiftRightBy_next (d a : Reg) (count : Nat) (s : State) :
    shiftRightBy d a count s =
      .next ((s.setReg d (shiftRight s.width (s.reg a) count)).setFlags
        (s.flags.withZ (shiftRight s.width (s.reg a) count))).finish := rfl

/-! ### The window -/

/-- A 32-bit access transfers the whole data bus (R70). -/
theorem laneValue_word {offset : Nat} (lanes : Word) (h : offset % 4 = 0) : laneValue .word offset lanes = lanes := by
  simp [laneValue, h, Width.bytes, Nat.mod_eq_of_lt lanes.isLt]

/-- A read that answers a free value takes one and nothing else. -/
theorem busyRead_eq (s : State) :
    s.busyRead =
      ({ s with busyReads := s.busyReads.advance 1 }, BitVec.ofNat 32 (s.busyReads.nth Config.freeRead 0)) := by
  simp [State.busyRead, FreeStream.take_eq]

/-- A legal read changes nothing but the free values taken (R74). -/
theorem legalRead_state (s : State) (offset : Nat) :
    (s.legalRead offset).1 = s ∨ (s.legalRead offset).1 = { s with busyReads := s.busyReads.advance 1 } := by
  unfold State.legalRead
  split <;> (try split) <;> simp [busyRead_eq]

/-- A host read of a refused access answers the error and changes nothing else (R67). -/
theorem hostRead_illegal {s : State} {width : Width} {offset : Nat} (h : accessLegal width offset = false) :
    s.hostRead width offset = s.respond .error := by
  simp [State.hostRead, h]

/-- A host write of a refused access answers the error and changes nothing else (R67). -/
theorem hostWrite_illegal {s : State} {width : Width} {offset : Nat} {lanes : Word} (h : accessLegal width offset = false) :
    s.hostWrite width offset lanes = s.respond .error := by
  simp [State.hostWrite, h]

/-- A bus read answers a next state exactly inside the window (R60). -/
theorem busRead_next {width : Width} {addr : Nat} {s t : State} :
    busRead width addr s = .next t ↔
      inWindow s.config addr = true ∧ t = s.hostRead width (addr - s.config.base) := by
  unfold busRead
  split
  · next h => exact ⟨fun e => ⟨h, (Host.Outcome.next.inj e).symm⟩, fun e => by rw [e.2]⟩
  · next h => exact ⟨nofun, fun e => absurd e.1 h⟩

/-- A bus write answers a next state exactly inside the window (R60). -/
theorem busWrite_next {width : Width} {addr : Nat} {lanes : Word} {s t : State} :
    busWrite width addr lanes s = .next t ↔
      inWindow s.config addr = true ∧ t = s.hostWrite width (addr - s.config.base) lanes := by
  unfold busWrite
  split
  · next h => exact ⟨fun e => ⟨h, (Host.Outcome.next.inj e).symm⟩, fun e => by rw [e.2]⟩
  · next h => exact ⟨nofun, fun e => absurd e.1 h⟩

/-! ### The step -/

/-- A step answers a next state exactly when the parameters are legal and the move does. -/
theorem step_next {s t : State} : step s = .next t ↔ s.config.Legal ∧ move s = .next t := by
  unfold step
  split
  · next h => exact ⟨fun e => ⟨h, e⟩, And.right⟩
  · next h => exact ⟨nofun, fun e => absurd e.1 h⟩

/-- The move with nothing scheduled is the engine's. -/
theorem move_nil {s : State} (h : s.schedule = []) : move s = engineStep s := by
  simp [move, h]

/-- The engine's step in phase EXEC is the completion of the latch. -/
theorem engineStep_exec {s : State} (h : s.phase = .exec) : engineStep s = completeLatched s := by
  simp [engineStep, h]

/-- The completion of a latch that decodes to a command is that command's. -/
theorem completeLatched_command {s : State} {i : Instr} (h : decode s.latch = .command i) :
    completeLatched s = exec i s := by
  simp [completeLatched, h]

end Sys2Proof.Machine
end

