-- ==== Sys2Proof/Laws/PerInstr.lean ====
section
/-! SUPPORT. The family EncodesOwnRow: the word of every command has the OP value of the command's own row, and a 0 in every bit the row
reserves (R95, R105). One lemma per constructor. -/

namespace Sys2Proof

/-- The value of a word in format R or X whose fields are in range. -/
theorem formatR_toNat {op d a b c imm : Nat} (ho : op < 256) (hd : d < 16) (ha : a < 16) (hb : b < 16) (hc : c < 16)
    (hi : imm < 256) :
    (formatR op d a b c imm).toNat = op + d * 256 + a * 4096 + b * 65536 + c * 1048576 + imm * 16777216 := by
  simp only [formatR, BitVec.toNat_ofNat]
  omega

/-- The value of a word in format I whose fields are in range. -/
theorem formatI_toNat {op d imm : Nat} (ho : op < 256) (hd : d < 16) (hi : imm < 65536) :
    (formatI op d imm).toNat = op + d * 256 + imm * 65536 := by
  simp only [formatI, BitVec.toNat_ofNat]
  omega

end Sys2Proof

namespace Sys2Proof.Laws.EncodesOwnRow

/-- The word of `i` lies in the row of `i`. -/
def Statement (i : Instr) : Prop :=
  cmdOP (encode i) = i.opcode.byte ∧ i.opcode.reservedClear (encode i) = true

theorem mov (d a : Reg) : Statement (.mov d a) := by
  have h := formatR_toNat (show Opcode.byte .mov < 256 by decide) d.isLt a.isLt (show 0 < 16 by decide) (show 0 < 16 by decide) (show 0 < 256 by decide)
  simp only [Opcode.byte] at h
  simp only [Statement, cmdOP, Opcode.reservedClear, Opcode.zeroRanges, Instr.opcode, Opcode.byte, encode, bits, h, List.all_cons,
    List.all_nil, Bool.and_true, beq_iff_eq]
  omega

theorem ldi (d : Reg) (imm : BitVec 16) : Statement (.ldi d imm) := by
  have h := formatI_toNat (show 0x02 < 256 by decide) d.isLt imm.isLt
  simp only [Statement, cmdOP, Opcode.reservedClear, Opcode.zeroRanges, Instr.opcode, Opcode.byte, encode, bits, h, List.all_cons,
    List.all_nil, Bool.and_true, beq_iff_eq]
  omega

theorem add (d a b : Reg) : Statement (.add d a b) := by
  have h := formatR_toNat (show Opcode.byte .add < 256 by decide) d.isLt a.isLt b.isLt (show 0 < 16 by decide) (show 0 < 256 by decide)
  simp only [Opcode.byte] at h
  simp only [Statement, cmdOP, Opcode.reservedClear, Opcode.zeroRanges, Instr.opcode, Opcode.byte, encode, bits, h, List.all_cons,
    List.all_nil, Bool.and_true, beq_iff_eq]
  omega

theorem sub (d a b : Reg) : Statement (.sub d a b) := by
  have h := formatR_toNat (show Opcode.byte .sub < 256 by decide) d.isLt a.isLt b.isLt (show 0 < 16 by decide) (show 0 < 256 by decide)
  simp only [Opcode.byte] at h
  simp only [Statement, cmdOP, Opcode.reservedClear, Opcode.zeroRanges, Instr.opcode, Opcode.byte, encode, bits, h, List.all_cons,
    List.all_nil, Bool.and_true, beq_iff_eq]
  omega

theorem mul (d a b : Reg) : Statement (.mul d a b) := by
  have h := formatR_toNat (show Opcode.byte .mul < 256 by decide) d.isLt a.isLt b.isLt (show 0 < 16 by decide) (show 0 < 256 by decide)
  simp only [Opcode.byte] at h
  simp only [Statement, cmdOP, Opcode.reservedClear, Opcode.zeroRanges, Instr.opcode, Opcode.byte, encode, bits, h, List.all_cons,
    List.all_nil, Bool.and_true, beq_iff_eq]
  omega

theorem divmod (d c a b : Reg) : Statement (.divmod d c a b) := by
  have h := formatR_toNat (show Opcode.byte .divmod < 256 by decide) d.isLt a.isLt b.isLt c.isLt (show 0 < 256 by decide)
  simp only [Opcode.byte] at h
  simp only [Statement, cmdOP, Opcode.reservedClear, Opcode.zeroRanges, Instr.opcode, Opcode.byte, encode, bits, h, List.all_cons,
    List.all_nil, Bool.and_true, beq_iff_eq]
  omega

theorem cmp (a b : Reg) : Statement (.cmp a b) := by
  have h := formatR_toNat (show Opcode.byte .cmp < 256 by decide) (show 0 < 16 by decide) a.isLt b.isLt (show 0 < 16 by decide) (show 0 < 256 by decide)
  simp only [Opcode.byte] at h
  simp only [Statement, cmdOP, Opcode.reservedClear, Opcode.zeroRanges, Instr.opcode, Opcode.byte, encode, bits, h, List.all_cons,
    List.all_nil, Bool.and_true, Bool.and_eq_true, beq_iff_eq]
  omega

theorem shl (d a : Reg) (imm : BitVec 8) : Statement (.shl d a imm) := by
  have h := formatR_toNat (show Opcode.byte .shl < 256 by decide) d.isLt a.isLt (show 0 < 16 by decide) (show 0 < 16 by decide) imm.isLt
  simp only [Opcode.byte] at h
  simp only [Statement, cmdOP, Opcode.reservedClear, Opcode.zeroRanges, Instr.opcode, Opcode.byte, encode, bits, h, List.all_cons,
    List.all_nil, Bool.and_true, beq_iff_eq]
  omega

theorem shr (d a : Reg) (imm : BitVec 8) : Statement (.shr d a imm) := by
  have h := formatR_toNat (show Opcode.byte .shr < 256 by decide) d.isLt a.isLt (show 0 < 16 by decide) (show 0 < 16 by decide) imm.isLt
  simp only [Opcode.byte] at h
  simp only [Statement, cmdOP, Opcode.reservedClear, Opcode.zeroRanges, Instr.opcode, Opcode.byte, encode, bits, h, List.all_cons,
    List.all_nil, Bool.and_true, beq_iff_eq]
  omega

theorem shlv (d a b : Reg) : Statement (.shlv d a b) := by
  have h := formatR_toNat (show Opcode.byte .shlv < 256 by decide) d.isLt a.isLt b.isLt (show 0 < 16 by decide) (show 0 < 256 by decide)
  simp only [Opcode.byte] at h
  simp only [Statement, cmdOP, Opcode.reservedClear, Opcode.zeroRanges, Instr.opcode, Opcode.byte, encode, bits, h, List.all_cons,
    List.all_nil, Bool.and_true, beq_iff_eq]
  omega

theorem shrv (d a b : Reg) : Statement (.shrv d a b) := by
  have h := formatR_toNat (show Opcode.byte .shrv < 256 by decide) d.isLt a.isLt b.isLt (show 0 < 16 by decide) (show 0 < 256 by decide)
  simp only [Opcode.byte] at h
  simp only [Statement, cmdOP, Opcode.reservedClear, Opcode.zeroRanges, Instr.opcode, Opcode.byte, encode, bits, h, List.all_cons,
    List.all_nil, Bool.and_true, beq_iff_eq]
  omega

theorem bitlen (d a : Reg) : Statement (.bitlen d a) := by
  have h := formatR_toNat (show Opcode.byte .bitlen < 256 by decide) d.isLt a.isLt (show 0 < 16 by decide) (show 0 < 16 by decide) (show 0 < 256 by decide)
  simp only [Opcode.byte] at h
  simp only [Statement, cmdOP, Opcode.reservedClear, Opcode.zeroRanges, Instr.opcode, Opcode.byte, encode, bits, h, List.all_cons,
    List.all_nil, Bool.and_true, beq_iff_eq]
  omega

theorem gcd (d a b : Reg) : Statement (.gcd d a b) := by
  have h := formatR_toNat (show Opcode.byte .gcd < 256 by decide) d.isLt a.isLt b.isLt (show 0 < 16 by decide) (show 0 < 256 by decide)
  simp only [Opcode.byte] at h
  simp only [Statement, cmdOP, Opcode.reservedClear, Opcode.zeroRanges, Instr.opcode, Opcode.byte, encode, bits, h, List.all_cons,
    List.all_nil, Bool.and_true, beq_iff_eq]
  omega

theorem xgcd (d c e a b : Reg) : Statement (.xgcd d c e a b) := by
  have h := formatR_toNat (show Opcode.byte .xgcd < 256 by decide) d.isLt a.isLt b.isLt c.isLt (show e.val < 256 by omega)
  simp only [Opcode.byte] at h
  simp only [Statement, cmdOP, Opcode.reservedClear, Opcode.zeroRanges, Instr.opcode, Opcode.byte, encode, bits, h, List.all_cons,
    List.all_nil, Bool.and_true, beq_iff_eq]
  omega

theorem modinv (d a b : Reg) : Statement (.modinv d a b) := by
  have h := formatR_toNat (show Opcode.byte .modinv < 256 by decide) d.isLt a.isLt b.isLt (show 0 < 16 by decide) (show 0 < 256 by decide)
  simp only [Opcode.byte] at h
  simp only [Statement, cmdOP, Opcode.reservedClear, Opcode.zeroRanges, Instr.opcode, Opcode.byte, encode, bits, h, List.all_cons,
    List.all_nil, Bool.and_true, beq_iff_eq]
  omega

theorem mrtest (a : Reg) (imm : BitVec 8) : Statement (.mrtest a imm) := by
  have h := formatR_toNat (show Opcode.byte .mrtest < 256 by decide) (show 0 < 16 by decide) a.isLt (show 0 < 16 by decide) (show 0 < 16 by decide) imm.isLt
  simp only [Opcode.byte] at h
  simp only [Statement, cmdOP, Opcode.reservedClear, Opcode.zeroRanges, Instr.opcode, Opcode.byte, encode, bits, h, List.all_cons,
    List.all_nil, Bool.and_true, Bool.and_eq_true, beq_iff_eq]
  omega

theorem rand (d a : Reg) : Statement (.rand d a) := by
  have h := formatR_toNat (show Opcode.byte .rand < 256 by decide) d.isLt a.isLt (show 0 < 16 by decide) (show 0 < 16 by decide) (show 0 < 256 by decide)
  simp only [Opcode.byte] at h
  simp only [Statement, cmdOP, Opcode.reservedClear, Opcode.zeroRanges, Instr.opcode, Opcode.byte, encode, bits, h, List.all_cons,
    List.all_nil, Bool.and_true, beq_iff_eq]
  omega

theorem bsize (d a : Reg) : Statement (.bsize d a) := by
  have h := formatR_toNat (show Opcode.byte .bsize < 256 by decide) d.isLt a.isLt (show 0 < 16 by decide) (show 0 < 16 by decide) (show 0 < 256 by decide)
  simp only [Opcode.byte] at h
  simp only [Statement, cmdOP, Opcode.reservedClear, Opcode.zeroRanges, Instr.opcode, Opcode.byte, encode, bits, h, List.all_cons,
    List.all_nil, Bool.and_true, beq_iff_eq]
  omega

theorem pack (d a b c : Reg) : Statement (.pack d a b c) := by
  have h := formatR_toNat (show Opcode.byte .pack < 256 by decide) d.isLt a.isLt b.isLt c.isLt (show 0 < 256 by decide)
  simp only [Opcode.byte] at h
  simp only [Statement, cmdOP, Opcode.reservedClear, Opcode.zeroRanges, Instr.opcode, Opcode.byte, encode, bits, h, List.all_cons,
    List.all_nil, Bool.and_true, beq_iff_eq]
  omega

theorem unpack (a b c : Reg) : Statement (.unpack a b c) := by
  have h := formatR_toNat (show Opcode.byte .unpack < 256 by decide) (show 0 < 16 by decide) a.isLt b.isLt c.isLt (show 0 < 256 by decide)
  simp only [Opcode.byte] at h
  simp only [Statement, cmdOP, Opcode.reservedClear, Opcode.zeroRanges, Instr.opcode, Opcode.byte, encode, bits, h, List.all_cons,
    List.all_nil, Bool.and_true, Bool.and_eq_true, beq_iff_eq]
  omega

theorem marker (d a b : Reg) : Statement (.marker d a b) := by
  have h := formatR_toNat (show Opcode.byte .marker < 256 by decide) d.isLt a.isLt b.isLt (show 0 < 16 by decide) (show 0 < 256 by decide)
  simp only [Opcode.byte] at h
  simp only [Statement, cmdOP, Opcode.reservedClear, Opcode.zeroRanges, Instr.opcode, Opcode.byte, encode, bits, h, List.all_cons,
    List.all_nil, Bool.and_true, beq_iff_eq]
  omega

theorem dlen (d a b c : Reg) : Statement (.dlen d a b c) := by
  have h := formatR_toNat (show Opcode.byte .dlen < 256 by decide) d.isLt a.isLt b.isLt c.isLt (show 0 < 256 by decide)
  simp only [Opcode.byte] at h
  simp only [Statement, cmdOP, Opcode.reservedClear, Opcode.zeroRanges, Instr.opcode, Opcode.byte, encode, bits, h, List.all_cons,
    List.all_nil, Bool.and_true, beq_iff_eq]
  omega

theorem modmul (d a b c : Reg) : Statement (.modmul d a b c) := by
  have h := formatR_toNat (show Opcode.byte .modmul < 256 by decide) d.isLt a.isLt b.isLt c.isLt (show 0 < 256 by decide)
  simp only [Opcode.byte] at h
  simp only [Statement, cmdOP, Opcode.reservedClear, Opcode.zeroRanges, Instr.opcode, Opcode.byte, encode, bits, h, List.all_cons,
    List.all_nil, Bool.and_true, beq_iff_eq]
  omega

theorem modexp (d a b c : Reg) : Statement (.modexp d a b c) := by
  have h := formatR_toNat (show Opcode.byte .modexp < 256 by decide) d.isLt a.isLt b.isLt c.isLt (show 0 < 256 by decide)
  simp only [Opcode.byte] at h
  simp only [Statement, cmdOP, Opcode.reservedClear, Opcode.zeroRanges, Instr.opcode, Opcode.byte, encode, bits, h, List.all_cons,
    List.all_nil, Bool.and_true, beq_iff_eq]
  omega

end Sys2Proof.Laws.EncodesOwnRow
end

