-- ==== Sys2Proof/Laws/Procedures.lean ====
section
/-! SUPPORT. One law per host action that the procedures share: a move, a store, a load, and the renaming of faults. -/

namespace Sys2Proof.Machine

/-- A move succeeds exactly when the step that performs it answers a next state. -/
theorem perform_ok {m : Move} {s t : State} : perform m s = .ok t ↔ step { s with schedule := [m] } = .next t := by
  unfold perform
  split <;> simp_all

/-- The lanes a store drives carry the value it stores (R70, R72). -/
theorem laneValue_laneWord {width : Width} {offset : Nat} {v : Word} (h : accessLegal width offset = true)
    (hv : v.toNat < 256 ^ width.bytes) : laneValue width offset (laneWord offset v) = v := by
  have h256 : ∀ n, 256 ^ n = 2 ^ (8 * n) := fun n => by rw [Nat.pow_mul]
  have fits : v.toNat * 256 ^ (offset % 4) < 2 ^ 32 := by
    have hoff : offset % 4 + width.bytes ≤ 4 := by
      simp only [accessLegal, Bool.and_eq_true, decide_eq_true_eq] at h
      have aligned := h.1
      cases width <;> simp only [Width.bytes] at aligned ⊢ <;> omega
    calc v.toNat * 256 ^ (offset % 4) < 256 ^ width.bytes * 256 ^ (offset % 4) :=
          Nat.mul_lt_mul_of_pos_right hv (Nat.pow_pos (by decide))
      _ = 256 ^ (offset % 4 + width.bytes) := by rw [← Nat.pow_add, Nat.add_comm]
      _ ≤ 2 ^ 32 := Nat.pow_le_pow_right (n := 256) (by decide) hoff
  apply BitVec.eq_of_toNat_eq
  have lanes : (laneWord offset v).toNat = v.toNat * 256 ^ (offset % 4) := by
    rw [laneWord, BitVec.toNat_shiftLeft, Nat.shiftLeft_eq, ← h256, Nat.mod_eq_of_lt fits]
  rw [laneValue, lanes, Nat.mul_div_cancel _ (Nat.pow_pos (by decide)), Nat.mod_eq_of_lt hv, BitVec.toNat_ofNat,
    Nat.mod_eq_of_lt v.isLt]

/-- A host store succeeds exactly when its write answers a next state and the bus took it. -/
theorem hostStore_ok {width : Width} {offset : Nat} {v : Word} {s t : State} :
    hostStore width offset v s = .ok t ↔
      perform (.write width (s.config.base + offset) (laneWord offset v)) s = .ok t ∧ t.response = some .written := by
  unfold hostStore
  cases perform (.write width (s.config.base + offset) (laneWord offset v)) s with
  | error e => simp [bind, Except.bind]
  | ok u =>
    simp only [bind, Except.bind]
    split <;> constructor <;> intro h <;> simp_all

/-- A host load succeeds exactly when its read answers a next state and the bus gave data; the value loaded is that of
the access's byte lanes. -/
theorem hostLoad_ok {width : Width} {offset : Nat} {v : Word} {s t : State} :
    hostLoad width offset s = .ok (v, t) ↔
      perform (.read width (s.config.base + offset)) s = .ok t ∧ ∃ lanes, t.response = some (.data lanes) ∧ laneValue width offset lanes = v := by
  unfold hostLoad
  cases perform (.read width (s.config.base + offset)) s with
  | error e => simp [bind, Except.bind]
  | ok u =>
    simp only [bind, Except.bind]
    split <;> constructor <;> intro h <;> simp_all

/-- Renaming faults keeps every success. -/
theorem renameFault_ok {α : Type} {codes : List Word} {e : ProcError} {x : Except ProcError α} {v : α} :
    renameFault codes e x = .ok v ↔ x = .ok v := by
  unfold renameFault
  split
  · rfl
  · split <;> simp
  · simp

/-- A command of a procedure succeeds exactly when the protocol reads no fault record. -/
theorem hostCmd_ok {i : Instr} {s t : State} :
    hostCmd i s = .ok t ↔ hostCommand (.poll 0) (encode i) s = .ok (none, t) := by
  unfold hostCmd
  cases hostCommand (.poll 0) (encode i) s with
  | error e => simp [bind, Except.bind]
  | ok x =>
    obtain ⟨record, u⟩ := x
    cases record <;> simp [bind, Except.bind]

end Sys2Proof.Machine
end

