-- ==== Sys2Proof/Tests/Slice0.lean ====
section
/-! SUPPORT. The model's own tests: the checks of the parameters, the decoder against words of the spec, one step per instruction on the
vectors of the spec (W = 64, BUFSZ = 4096), the protocol vectors, and a witness for the hypotheses of every statement. -/

namespace Sys2Proof.Tests

open Sys2Proof.Machine

/- The theorems are elaborated one after another: each waits for the kernel, and many waiting at once need more memory than the check
gives. -/
set_option Elab.async false

/-! ### Helpers -/

/-- The parameters of the spec's vectors, with the window at a nonzero BASE. -/
def vectorConfig : Config := { width := 64, bufSize := 4096, base := 0x30000 }

/-- The reset state of the spec's vectors with some registers loaded. -/
def load (l : List (Reg × Nat)) : State := l.foldl (fun s p => s.setReg p.1 p.2) (State.resetOf vectorConfig)

/-- The same with every flag 1, to see which flags a command leaves alone. -/
def flagged (l : List (Reg × Nat)) : State := (load l).setFlags (Flags.ofWord 0xFF)

/-- The same with bytes in BUF. -/
def withBytes (m : Memory) (s : State) : State := s.setBuf m

/-- The same with draws supplied. -/
def withDraws (l : List Nat) (s : State) : State := s.setDraws { supplied := l, taken := 0 }

/-- The same with moves scheduled. -/
def scheduled (l : List Move) (s : State) : State := { s with schedule := l }

/-- What a function sees of a next state. -/
def see {α : Type} (f : State → α) (o : Host.Outcome State Fault Refusal) : Option α :=
  match o with
  | .next t => some (f t)
  | .fault _ => none
  | .refused _ => none

/-- One step that runs a command word. -/
def run (w : Nat) (s : State) : Host.Outcome State Fault Refusal := step (s.withFetchWord 32 w)

/-- A register, FLAGS and STATUS after one step that runs a command word. -/
def result (r : Reg) (w : Nat) (s : State) : Option (Nat × Word × Word) :=
  see (fun t => (t.reg r, t.flags.toWord, t.statusWord)) (run w s)

/-- ERRCODE, ERRCMD, FLAGS and STATUS after one step that runs a command word. -/
def record (w : Nat) (s : State) : Option (BitVec 8 × Word × Word × Word) :=
  see (fun t => (t.errcode, t.errcmd, t.flags.toWord, t.statusWord)) (run w s)

/-- The error of a procedure that fails. -/
def failure {α : Type} (x : Except ProcError α) : Option ProcError :=
  match x with
  | .ok _ => none
  | .error e => some e

/-! ### Parameters (R8): an ill-formed configuration for each check -/

theorem test_reference_is_legal :
    Config.reference.Legal ∧ vectorConfig.Legal := by decide

theorem test_extreme_parameters_are_legal :
    ({ width := 64, bufSize := 256, base := 0 } : Config).Legal ∧
      ({ width := 8192, bufSize := 32768, base := 0x10000 } : Config).Legal := by decide

theorem test_width_not_a_multiple_of_32 :
    ¬ ({ width := 65, bufSize := 4096, base := 0 } : Config).Legal := by decide

theorem test_width_below_64 :
    ¬ ({ width := 32, bufSize := 4096, base := 0 } : Config).Legal := by decide

theorem test_width_above_8192 :
    ¬ ({ width := 8224, bufSize := 4096, base := 0 } : Config).Legal := by decide

theorem test_bufsize_not_a_power_of_two :
    ¬ ({ width := 64, bufSize := 4095, base := 0 } : Config).Legal := by decide

theorem test_bufsize_below_256 :
    ¬ ({ width := 64, bufSize := 128, base := 0 } : Config).Legal := by decide

theorem test_bufsize_above_32768 :
    ¬ ({ width := 64, bufSize := 65536, base := 0 } : Config).Legal := by decide

theorem test_base_not_aligned :
    ¬ ({ width := 64, bufSize := 4096, base := 0x8000 } : Config).Legal := by decide

theorem test_budgets :
    BudgetsLegal 1 1 ∧ ¬ BudgetsLegal 0 1 ∧ ¬ BudgetsLegal 1 0 := by decide

theorem test_illegal_budgets_are_refused :
    failure (generateOnEngine 3 0 1 (load [])) = some .illegalBudget ∧
    failure (generateOnEngine 3 1 0 (load [])) = some .illegalBudget := by decide +kernel

theorem test_illegal_parameters_are_refused :
    (match step (State.resetOf { width := 65, bufSize := 4096, base := 0 }) with
      | .refused .illegalConfig => true
      | _ => false) = true := by decide

/-! ### The decoder: words the spec writes (R102, R105 and the examples of each rule) -/

theorem test_decode_data_and_arithmetic :
    decode 0x00002501 = .command (.mov 5 2) ∧
    decode 0x0CA10102 = .command (.ldi 1 3233) ∧
    decode 0x00021310 = .command (.add 3 1 2) ∧
    decode 0x00041511 = .command (.sub 5 1 4) ∧
    decode 0x00021312 = .command (.mul 3 1 2) ∧
    decode 0x00421313 = .command (.divmod 3 4 1 2) := by decide

theorem test_encode_data_and_arithmetic :
    encode (.mov 5 2) = 0x00002501 ∧
    encode (.ldi 1 3233) = 0x0CA10102 ∧
    encode (.add 3 1 2) = 0x00021310 ∧
    encode (.sub 5 1 4) = 0x00041511 ∧
    encode (.mul 3 1 2) = 0x00021312 ∧
    encode (.divmod 3 4 1 2) = 0x00421313 := by decide

theorem test_decode_compare_and_shift :
    decode 0x00025020 = .command (.cmp 5 2) ∧
    decode 0x10001221 = .command (.shl 2 1 16) ∧
    decode 0x02003422 = .command (.shr 4 3 2) ∧
    decode 0x00061723 = .command (.shlv 7 1 6) ∧
    decode 0x00061724 = .command (.shrv 7 1 6) ∧
    decode 0x00001225 = .command (.bitlen 2 1) := by decide

theorem test_encode_compare_and_shift :
    encode (.cmp 5 2) = 0x00025020 ∧
    encode (.shl 2 1 16) = 0x10001221 ∧
    encode (.shr 4 3 2) = 0x02003422 ∧
    encode (.shlv 7 1 6) = 0x00061723 ∧
    encode (.shrv 7 1 6) = 0x00061724 ∧
    encode (.bitlen 2 1) = 0x00001225 := by decide

theorem test_decode_gcd_unit :
    decode 0x00052630 = .command (.gcd 6 2 5) ∧
    decode 0x08752631 = .command (.xgcd 6 7 8 2 5) ∧
    decode 0x00052332 = .command (.modinv 3 2 5) := by decide

theorem test_encode_gcd_unit :
    encode (.gcd 6 2 5) = 0x00052630 ∧
    encode (.xgcd 6 7 8 2 5) = 0x08752631 ∧
    encode (.modinv 3 2 5) = 0x00052332 := by decide

theorem test_decode_primality_and_random :
    decode 0x28001038 = .command (.mrtest 1 40) ∧
    decode 0x00002339 = .command (.rand 3 2) := by decide

theorem test_encode_primality_and_random :
    encode (.mrtest 1 40) = 0x28001038 ∧
    encode (.rand 3 2) = 0x00002339 := by decide

theorem test_decode_codec :
    decode 0x00001340 = .command (.bsize 3 1) ∧
    decode 0x00154641 = .command (.pack 6 4 5 1) ∧
    decode 0x00754042 = .command (.unpack 4 5 7) ∧
    decode 0x00038943 = .command (.marker 9 8 3) ∧
    decode 0x0039BC44 = .command (.dlen 12 11 9 3) := by decide

theorem test_encode_codec :
    encode (.bsize 3 1) = 0x00001340 ∧
    encode (.pack 6 4 5 1) = 0x00154641 ∧
    encode (.unpack 4 5 7) = 0x00754042 ∧
    encode (.marker 9 8 3) = 0x00038943 ∧
    encode (.dlen 12 11 9 3) = 0x0039BC44 := by decide

theorem test_decode_modular :
    decode 0x00166750 = .command (.modmul 7 6 6 1) ∧
    decode 0x00126751 = .command (.modexp 7 6 2 1) := by decide

theorem test_encode_modular :
    encode (.modmul 7 6 6 1) = 0x00166750 ∧
    encode (.modexp 7 6 2 1) = 0x00126751 := by decide

/-- R91: the fields of each format written out in binary. -/
theorem test_decode_bit_by_bit :
    decode 0b00000000000100100110011101010001#32 = .command (.modexp 7 6 2 1) ∧
    decode 0b00001000011101010010011000110001#32 = .command (.xgcd 6 7 8 2 5) ∧
    decode 0b00001100101000010000000100000010#32 = .command (.ldi 1 3233) := by decide

/-- Vectors 2.7. -/
theorem test_decode_faults :
    decode 0x00000000 = .illegalOpcode ∧ decode 0x00000003 = .illegalOpcode ∧ decode 0xFFFFFFFF = .illegalOpcode ∧
    decode 0x00012501 = .reservedField ∧ decode 0x00051102 = .reservedField ∧ decode 0x18752631 = .reservedField ∧
    decode 0x01412313 = .reservedField ∧ decode 0x28001138 = .reservedField := by decide

/-- The mnemonic, mask and match of every row of spec/opcode_table.json. -/
theorem test_rows_are_the_opcode_table :
    Opcode.all.map (fun o => (o.mnemonic, o.mask, o.byte)) =
    [("MOV", 0xFFFF00FF, 0x01), ("LDI", 0x0000F0FF, 0x02), ("ADD", 0xFFF000FF, 0x10), ("SUB", 0xFFF000FF, 0x11), ("MUL", 0xFFF000FF, 0x12), ("DIVMOD", 0xFF0000FF, 0x13)] ++
    [("CMP", 0xFFF00FFF, 0x20), ("SHL", 0x00FF00FF, 0x21), ("SHR", 0x00FF00FF, 0x22), ("SHLV", 0xFFF000FF, 0x23), ("SHRV", 0xFFF000FF, 0x24), ("BITLEN", 0xFFFF00FF, 0x25)] ++
    [("GCD", 0xFFF000FF, 0x30), ("XGCD", 0xF00000FF, 0x31), ("MODINV", 0xFFF000FF, 0x32), ("MRTEST", 0x00FF0FFF, 0x38), ("RAND", 0xFFFF00FF, 0x39), ("BSIZE", 0xFFFF00FF, 0x40)] ++
    [("PACK", 0xFF0000FF, 0x41), ("UNPACK", 0xFF000FFF, 0x42), ("MARKER", 0xFFF000FF, 0x43), ("DLEN", 0xFF0000FF, 0x44), ("MODMUL", 0xFF0000FF, 0x50), ("MODEXP", 0xFF0000FF, 0x51)] := by decide

/-- The operand order of R102. -/
theorem test_assembly :
    (Instr.xgcd 6 7 8 2 5).asm = "XGCD r6, r7, r8, r2, r5" ∧ (Instr.divmod 3 4 1 2).asm = "DIVMOD r3, r4, r1, r2" ∧
    (Instr.shl 2 1 16).asm = "SHL r2, r1, 16" ∧ (Instr.unpack 4 5 7).asm = "UNPACK r4, r5, r7" := by decide +kernel

/-- R103, and vectors 2.1 row 20 and 2.6 row 1. -/
theorem test_pseudo_instructions :
    assemble (.clr 1) = .ldi 1 0 ∧ encode (assemble (.mod 3 1 2)) = 0x00321313 ∧
    encode (assemble (.sqrmod 7 6 1)) = 0x00166750 ∧ assemble (.inv 3 2 5) = .modinv 3 2 5 := by decide

theorem test_table_words :
    decodeTableWord 32 0x00126751 = some (.modexp 7 6 2 1) ∧ decodeTableWord 32 0 = none := by decide

/-! ### One step per instruction: the vectors of section 2 of the spec. FLAGS starts at 0, or at 0xFF to see which flags are kept -/

/-- Vector 2.1 row 1: Z only is written. -/
theorem test_mov :
    result 5 0x00002501 (flagged [(2, 17)]) = some (17, 0xFE, 2) := by decide +kernel

/-- Vector 2.1 row 2. -/
theorem test_mov_zero :
    result 5 0x00002501 (load []) = some (0, 0x01, 2) := by decide +kernel

/-- Vector 2.1 row 4: no sign extension. -/
theorem test_ldi :
    result 1 0xFFFF0102 (flagged [(1, 2 ^ 64 - 1)]) = some (65535, 0xFE, 2) := by decide +kernel

/-- Vector 2.1 row 5. -/
theorem test_ldi_zero :
    result 1 0x00000102 (load [(1, 5)]) = some (0, 0x01, 2) := by decide +kernel

/-- Vector 2.1 row 7. -/
theorem test_add_wraps :
    result 3 0x00021310 (load [(1, 2 ^ 64 - 1), (2, 1)]) = some (0, 0x03, 2) := by decide +kernel

/-- Vector 2.1 row 8: a source that is the destination. -/
theorem test_add_doubles :
    result 1 0x00011110 (flagged [(1, 2 ^ 64 - 1)]) = some (2 ^ 64 - 2, 0xFE, 2) := by decide +kernel

/-- Vector 2.1 row 10. -/
theorem test_sub_borrows :
    result 5 0x00041511 (flagged [(1, 0), (4, 1)]) = some (2 ^ 64 - 1, 0xFE, 2) := by decide +kernel

/-- Vector 2.1 row 11. -/
theorem test_sub_equal :
    result 5 0x00011511 (flagged [(1, 5)]) = some (0, 0xFD, 2) := by decide +kernel

/-- Vector 2.1 row 14. -/
theorem test_mul_overflow :
    result 3 0x00021312 (load [(1, 2 ^ 32), (2, 2 ^ 32)]) = some (0, 0x05, 2) := by decide +kernel

/-- Vector 2.1 row 16. -/
theorem test_mul_low_bits :
    result 3 0x00021312 (flagged [(1, 2 ^ 64 - 1), (2, 2 ^ 64 - 1)]) = some (1, 0xFE, 2) := by decide +kernel

/-- Vector 2.1 row 17. -/
theorem test_divmod :
    see (fun t => (t.reg 3, t.reg 4, t.flags.toWord)) (run 0x00421313 (flagged [(1, 3233), (2, 256)])) = some (12, 161, 0xFE) := by decide +kernel

/-- Vector 2.1 row 20: the remainder is kept. -/
theorem test_divmod_same_destination :
    result 3 0x00321313 (load [(1, 3233), (2, 256)]) = some (161, 0x00, 2) := by decide +kernel

/-- Vector 2.2 row 3: unsigned. -/
theorem test_cmp_greater :
    result 5 0x00025020 (flagged [(5, 2 ^ 64 - 1), (2, 0)]) = some (2 ^ 64 - 1, 0xE7, 2) := by decide +kernel

/-- Vector 2.2 row 4. -/
theorem test_cmp_less :
    result 5 0x00025020 (load [(5, 2), (2, 3)]) = some (2, 0x08, 2) := by decide +kernel

/-- Vector 2.2 row 7: a 1 bit is lost. -/
theorem test_shl_loss :
    result 2 0x3F001221 (flagged [(1, 3)]) = some (2 ^ 63, 0xFE, 2) := by decide +kernel

/-- Vector 2.2 row 8. -/
theorem test_shl_by_width :
    result 2 0x40001221 (load [(1, 1)]) = some (0, 0x05, 2) := by decide +kernel

/-- Vector 2.2 row 12: logical. -/
theorem test_shr :
    result 4 0x3F003422 (flagged [(3, 2 ^ 64 - 1)]) = some (1, 0xFE, 2) := by decide +kernel

/-- Vector 2.2 row 13. -/
theorem test_shr_above_width :
    result 4 0xFF003422 (load [(3, 2 ^ 64 - 1)]) = some (0, 0x01, 2) := by decide +kernel

/-- Vector 2.2 row 15. -/
theorem test_shlv_huge_count :
    result 7 0x00061723 (load [(1, 1), (6, 2 ^ 64 - 1)]) = some (0, 0x05, 2) := by decide +kernel

/-- Vector 3 row 5. -/
theorem test_shlv_by_itself :
    result 1 0x00011123 (flagged [(1, 9)]) = some (4608, 0xFA, 2) := by decide +kernel

/-- Vector 2.2 row 17. -/
theorem test_shrv :
    result 7 0x00061724 (flagged [(1, 3233), (6, 8)]) = some (12, 0xFE, 2) := by decide +kernel

/-- Vector 2.2 row 18. -/
theorem test_shrv_by_width :
    result 7 0x00061724 (load [(1, 3233), (6, 64)]) = some (0, 0x01, 2) := by decide +kernel

/-- Vector 2.2 row 23. -/
theorem test_bitlen :
    result 2 0x00001225 (flagged [(1, 2 ^ 64 - 1)]) = some (64, 0xFE, 2) := by decide +kernel

/-- Vector 2.2 row 21. -/
theorem test_bitlen_zero :
    result 2 0x00001225 (load []) = some (0, 0x01, 2) := by decide +kernel

/-- Vector 2.3 row 2. -/
theorem test_gcd :
    result 6 0x00052630 (flagged [(2, 48), (5, 18)]) = some (6, 0xFE, 2) := by decide +kernel

/-- Vector 2.3 row 3. -/
theorem test_gcd_zero :
    result 6 0x00052630 (load [(2, 12)]) = some (12, 0x00, 2) := by decide +kernel

/-- Vector 2.3 row 6. -/
theorem test_xgcd :
    see (fun t => (t.reg 6, t.reg 7, t.reg 8, t.flags.toWord)) (run 0x08752631 (flagged [(2, 17), (5, 3120)])) =
      some (1, 2 ^ 64 - 367, 2, 0xFE) := by decide +kernel

/-- Vector 2.3 row 12: the last write is kept. -/
theorem test_xgcd_same_destinations :
    result 6 0x06652631 (load [(2, 17), (5, 3120)]) = some (2, 0x00, 2) := by decide +kernel

/-- Vector 2.3 row 13. -/
theorem test_modinv :
    result 3 0x00052332 (flagged [(2, 17), (5, 3120)]) = some (2753, 0xFE, 2) := by decide +kernel

/-- Vector 2.3 row 16. -/
theorem test_modinv_not_invertible :
    record 0x00052332 (flagged [(2, 6), (5, 9)]) = some (5, 0x00052332, 0xFF, 6) := by decide +kernel

/-- Vector 2.4 row 14. -/
theorem test_mrtest_liar_then_witness :
    result 1 0x02001038 (withDraws [9, 3] (flagged [(1, 91)])) = some (91, 0xBF, 2) := by decide +kernel

/-- Vector 2.4 row 18. -/
theorem test_mrtest_even_liar :
    result 1 0x01001038 (withDraws [3] (load [(1, 28)])) = some (28, 0x40, 2) := by decide +kernel

/-- Vector 2.4 row 24. -/
theorem test_rand_same_register :
    result 2 0x00002239 (withDraws [40961] (flagged [(2, 65536)])) = some (40961, 0xFE, 2) := by decide +kernel

/-- Vector 2.4 row 23: no draw. -/
theorem test_rand_empty :
    see (fun t => (t.errcode, t.draws)) (run 0x00002339 (withDraws [7] (load []))) = some (0x0A, { supplied := [7], taken := 0 }) := by decide +kernel

/-- Vector 2.5 row 8. -/
theorem test_bsize :
    result 3 0x00001340 (flagged [(1, 2 ^ 64 - 1)]) = some (7, 0xFE, 2) := by decide +kernel

/-- Vector 2.5 row 2. -/
theorem test_bsize_small :
    result 3 0x00001340 (load [(1, 255)]) = some (0, 0x01, 2) := by decide +kernel

/-- Vector 2.5 row 11: little-endian. -/
theorem test_pack :
    result 6 0x00154641 (withBytes [(0, 72), (1, 105)] (flagged [(4, 0), (5, 2), (1, 1022117)])) = some (26952, 0xFE, 2) := by decide +kernel

/-- Vector 2.5 row 16: BUF_RANGE before MOD_OVF_BLOCK. -/
theorem test_pack_range_first :
    record 0x00154641 (load [(5, 9)]) = some (7, 0x00154641, 0x00, 6) := by decide +kernel

/-- Vector 2.5 row 20, with bytes that were there before. -/
theorem test_unpack :
    see (fun t => (t.buf, t.flags.toWord)) (run 0x00754042 (withBytes [(0, 1), (1, 2), (2, 3)] (flagged [(5, 2), (7, 26952)]))) =
      some ([(0, 72), (1, 105), (2, 3)], 0x7F) := by decide +kernel

/-- Vector 2.5 row 21. -/
theorem test_unpack_truncates :
    see (fun t => (t.buf, t.flags.toWord)) (run 0x00754042 (load [(4, 2), (5, 1), (7, 4660)])) = some ([(2, 52)], 0x80) := by decide +kernel

/-- Vector 2.5 row 26. -/
theorem test_marker :
    result 9 0x00038943 (flagged [(8, 3), (3, 2)]) = some (1, 0xFE, 2) := by decide +kernel

/-- Vector 2.5 row 29. -/
theorem test_marker_zero :
    record 0x00038943 (flagged [(8, 3)]) = some (8, 0x00038943, 0xFF, 6) := by decide +kernel

/-- Vector 2.5 row 30. -/
theorem test_dlen :
    result 12 0x0039BC44 (flagged [(11, 2), (9, 1), (3, 2)]) = some (3, 0xFE, 2) := by decide +kernel

/-- Vector 2.5 row 37. -/
theorem test_dlen_too_long :
    record 0x0039BC44 (load [(11, 2 ^ 63), (3, 2)]) = some (9, 0x0039BC44, 0x00, 6) := by decide +kernel

/-- Vector 2.6 row 3: the exact product. -/
theorem test_modmul :
    result 7 0x00132750 (flagged [(2, 2 ^ 64 - 1), (3, 2 ^ 64 - 1), (1, 2 ^ 64 - 59)]) = some (3364, 0xFE, 2) := by decide +kernel

/-- Vector 2.6 row 5. -/
theorem test_modmul_zero :
    record 0x00132750 (load [(2, 5), (3, 7)]) = some (3, 0x00132750, 0x00, 6) := by decide +kernel

/-- Vector 2.6 row 6. -/
theorem test_modexp :
    result 7 0x00126751 (flagged [(6, 65), (2, 17), (1, 3233)]) = some (2790, 0xFE, 2) := by decide +kernel

/-- Vector 2.6 row 13. -/
theorem test_modexp_full_width :
    result 7 0x00126751 (load [(6, 2), (2, 2 ^ 64 - 1), (1, 2 ^ 64 - 59)]) = some (2 ^ 59, 0x00, 2) := by decide +kernel

/-- Vector 2.7 row 7: RESERVED_FIELD before DIV_ZERO. -/
theorem test_decode_fault_first :
    record 0x01412313 (flagged [(2, 7)]) = some (2, 0x01412313, 0xFF, 6) := by decide +kernel

/-! ### One step of the protocol: vectors of section 4 of the spec -/

/-- Vectors 4 rows 1 and 6: DONE, ERR and ERRCODE are cleared, OVR and ERRCMD kept. -/
theorem test_acceptance :
    see (fun t => (t.statusWord, t.errcode, t.errcmd, t.latch)) (step (scheduled [.write .word (0x30000 + 0x00C) 0x00050102] ({ load [] with done := true, err := true, ovr := true, errcode := 3, errcmd := 0x00126751 }))) =
      some (0x9, 0, 0x00126751, 0x00050102) := by decide +kernel

/-- Vectors 4 rows 1 and 7. -/
theorem test_completion_raises_irq :
    see (fun t => (t.reg 1, t.statusWord, t.irq)) (step ({ load [] with phase := .exec, latch := 0x00050102, ie := true })) = some (5, 2, true) := by decide +kernel

/-- Vector 4 row 2. -/
theorem test_write_while_busy :
    see (fun t => (t.reg 1, t.statusWord, t.latch)) (step (scheduled [.write .word (0x30000 + 0x4400) 9] ({ load [] with phase := .exec, latch := 0x00050102, ie := true }))) = some (0, 0x9, 0x00050102) := by decide +kernel

/-- Vector 4 row 3. -/
theorem test_command_while_busy :
    see (fun t => (t.statusWord, t.latch)) (step (scheduled [.write .word (0x30000 + 0x00C) 0x00070102] ({ load [] with phase := .exec, latch := 0x00050102, ie := true }))) = some (0x9, 0x00050102) := by decide +kernel

/-- Vectors 4 rows 4 and 5. -/
theorem test_status_write_one_to_clear :
    see (fun t => t.statusWord) (step (scheduled [.write .word (0x30000 + 0x008) 4] ({ load [] with done := true, err := true, ovr := true, errcode := 3, errcmd := 0x00126751 }))) = some 0xA ∧
    see (fun t => t.statusWord) (step (scheduled [.write .word (0x30000 + 0x008) 1] ({ load [] with done := true, err := true, ovr := true, errcode := 3, errcmd := 0x00126751 }))) = some 0xE := by decide +kernel

/-- Vector 4 row 10. -/
theorem test_enable_raises_irq_at_once :
    see (fun t => (t.irq, t.statusWord)) (step (scheduled [.write .word (0x30000 + 0x004) 1] ({ load [] with done := true, err := true, ovr := true, errcode := 3, errcmd := 0x00126751 }))) = some (true, 0xE) := by decide +kernel

/-- Vector 4 row 12: the reset wins over IE, and zeroisation has not happened yet. -/
theorem test_soft_reset :
    see (fun t => (t.statusWord, t.ie, t.reg 6, t.latch)) (step (scheduled [.write .word (0x30000 + 0x004) 3] ({ load [(6, 65)] with phase := .exec, latch := 5, ie := true }))) =
      some (1, false, 65, 0) := by decide +kernel

/-- Vector 4 rows 12 and 13. -/
theorem test_zeroisation :
    see (fun t => (t.statusWord, t.reg 6, t.flags.toWord, t.buf)) (step { withBytes [(1, 1)] (flagged [(6, 65)]) with phase := .zeroise, ovr := true }) =
      some (8, 0, 0, []) := by decide +kernel

/-- Vectors 4 rows 14 and 15. -/
theorem test_identity :
    see (fun t => t.response) (step (scheduled [.read .word (0x30000 + 0x000)] (load []))) = some (some (.data 0x52534101)) ∧
    see (fun t => t.response) (step (scheduled [.read .word (0x30000 + 0x014)] (load []))) = some (some (.data 0x10000040)) ∧
    State.reset.paramWord = 0x10000800 := by decide +kernel

/-- Vector 4 row 17. -/
theorem test_unmapped_write_while_busy :
    see (fun t => (t.statusWord, t.response)) (step (scheduled [.write .word (0x30000 + 0x100) 0xFFFFFFFF] ({ load [] with phase := .exec, latch := 0x00050102, ie := true }))) = some (1, some .written) := by decide +kernel

/-- Vectors 4 rows 18 and 19. -/
theorem test_register_word :
    see (fun t => t.reg 1) (step (scheduled [.write .word (0x30000 + 0x4404) 0xDEADBEEF] (load [(1, 5)]))) = some 0xDEADBEEF00000005 ∧
    see (fun t => t.reg 1) (step (scheduled [.write .word (0x30000 + 0x4408) 0x11111111] (load [(1, 5)]))) = some 5 := by decide +kernel

/-- Vector 4 row 20. -/
theorem test_buffer_widths :
    see (fun t => t.response) (step (scheduled [.read .word (0x30000 + 0x8000)] (withBytes [(3, 0x41)] (load [])))) = some (some (.data 0x41000000)) ∧
    (hostLoad .half 0x8002 (withBytes [(3, 0x41)] (load []))).toOption.map Prod.fst = some 0x4100 ∧
    (hostStore .byte 0x8003 0x41 (load [])).toOption.map (fun t => t.buf) = some [(3, 0x41)] := by decide +kernel

/-- R70: all lanes of a byte read, and the one lane of a byte write. -/
theorem test_byte_lanes :
    see (fun t => t.response) (step (scheduled [.read .byte (0x30000 + 0x8002)] (withBytes [(1, 0x22), (3, 0x41)] (load [])))) = some (some (.data 0x41002200)) ∧
    see (fun t => t.buf) (step (scheduled [.write .byte (0x30000 + 0x8002) 0x11223344] (load []))) = some [(2, 0x22)] := by decide +kernel

/-- Vector 4 row 21. -/
theorem test_beyond_the_buffer :
    see (fun t => (t.buf, t.response)) (step (scheduled [.write .byte (0x30000 + 0x9000) 0x55] (load []))) = some ([], some .written) := by decide +kernel

/-- Vectors 4 rows 22 and 23. -/
theorem test_refused_accesses :
    see (fun t => (t.response, t.statusWord)) (step (scheduled [.read .half (0x30000 + 0x8001)] (load []))) = some (some .error, 0) ∧
    see (fun t => (t.response, t.phase)) (step (scheduled [.write .byte (0x30000 + 0x00C) 0x01] (load []))) = some (some .error, .idle) := by decide +kernel

/-- Vector 4 row 24. -/
theorem test_flags_write :
    see (fun t => t.flags.toWord) (step (scheduled [.write .word (0x30000 + 0x018) 0x140] (load []))) = some 0x40 := by decide +kernel

theorem test_outside_the_window :
    (match step (scheduled [.read .word 0x2FFFC] (load [])) with
      | .fault (.outsideWindow a) => some a
      | _ => none) = some 0x2FFFC := by decide +kernel

/-- Vector 2.7 row 1, as a step. -/
theorem test_undecodable_latch_faults :
    see (fun t => (t.errcode, t.statusWord, t.reg 6)) (step { load [(6, 65)] with phase := .exec, latch := 0 }) = some (1, 6, 65) := by decide +kernel

/-! ### The reference procedures (the worked examples of section 1 of the spec) -/

/-- Example 1.1. -/
theorem test_encrypt_the_letter_a :
    (encryptBlocks [65] 17 3233).toOption = some [2790, 0] ∧ (decryptBlocks [2790, 0] 2753 3233).toOption = some [65] := by decide +kernel

/-- Example 1.3. -/
theorem test_empty_payload :
    (encryptBlocks [] 17 3233).toOption = some [0] ∧ (decryptBlocks [0] 2753 3233).toOption = some [] := by decide +kernel

/-- Example 1.5. -/
theorem test_codec_lengths :
    encodeBlocks [72, 105, 33] 2 = [26952, 33, 1] ∧ (decodeBlocks [26952, 33, 1] 2).toOption = some [72, 105, 33] ∧
    encodeBlocks [72, 105] 2 = [26952, 0] := by decide +kernel

/-- R255, R284 and D34; a sequence with no marker is malformed (R253). -/
theorem test_modulus_below_256 :
    failure (encryptBlocks [65] 3 15) = some .modulusOverflowBlock ∧ failure (decryptBlocks [0] 3 15) = some .modulusOverflowBlock ∧
    failure (decryptOnEngine [0] 3 15 (load [])) = some .modulusOverflowBlock ∧ failure (decryptOnEngine [] 3 15 (load [])) = some .malformedBlocks := by decide +kernel

/-- R316 and vector 2.1 row 18: ERRCODE and ERRCMD are read, whenever the host polls. -/
theorem test_command_fault_record :
    (hostCommand (.poll 2) 0x00421313 (load [(1, 7)])).toOption.map (fun x => (x.1, x.2.statusWord)) =
      some (some { code := 4, command := 0x00421313 }, 6) := by decide +kernel

/-- R316: the wait by IRQ, and the two ways to lower it (vectors 4 rows 8 and 9). -/
theorem test_command_by_interrupt :
    (hostCommand .interrupt 0x00050102 { load [] with ie := true }).toOption.map (fun x => (x.1, x.2.reg 1, x.2.irq)) = some (none, 5, true) ∧
    failure (hostCommand .interrupt 0x00050102 (load [])) = some .noInterrupt ∧
    (hostAcknowledge { load [] with ie := true, done := true }).toOption.map (fun x => (x.done, x.irq)) = some (false, false) ∧
    (hostEnableInterrupt false { load [] with ie := true, done := true }).toOption.map (fun x => (x.done, x.irq)) = some (true, false) := by decide +kernel

/-- R315. -/
theorem test_boot :
    (bootEngine 64 4096 true { load [(1, 5)] with phase := .zeroise, ovr := true }).toOption.map (fun t => (t.statusWord, t.ie, t.reg 1)) =
      some (0, true, 0) ∧
    (bootEngine 65 4096 true (load [])).toOption.map (fun t => t.ie) = none := by decide +kernel

/-! ### Witnesses: a concrete input that meets the hypotheses of each statement, and of each of its clauses at the ends of its range -/

theorem witness_UnassignedOpcodesFault :
    ([0x00, 0x03, 0x0F, 0x14, 0x1F, 0x26, 0x2F, 0x33, 0x37, 0x3A, 0x3F, 0x45, 0x4F, 0x52, 0xFF] : List Word).map cmdOP = [0x00, 0x03, 0x0F, 0x14, 0x1F, 0x26, 0x2F, 0x33, 0x37, 0x3A, 0x3F, 0x45, 0x4F, 0x52, 0xFF] ∧
    (∀ op ∈ [0x00, 0x03, 0x0F, 0x14, 0x1F, 0x26, 0x2F, 0x33, 0x37, 0x3A, 0x3F, 0x45, 0x4F, 0x52, 0xFF], UnassignedOpcode op) ∧
    ¬ UnassignedOpcode 0x01 ∧ ¬ UnassignedOpcode 0x51 := by
  refine ⟨by decide, ?_, ?_, ?_⟩ <;> simp [UnassignedOpcode]

theorem witness_NonzeroUnusedBitsFault :
    cmdOP 0x00012501 = Opcode.mov.byte ∧ (31, 16) ∈ Opcode.mov.zeroRanges ∧ (0x00012501 : Word).getLsbD 16 = true ∧
    cmdOP 0x80000001 = Opcode.mov.byte ∧ (0x80000001 : Word).getLsbD 31 = true := by decide +kernel

theorem witness_StepRunsTheLatchedCommandOrTheScheduledAccess_exec :
    ({ load [] with phase := .exec, latch := 0x00050102, ie := true } : State).config.Legal ∧ ({ load [] with phase := .exec, latch := 0x00050102, ie := true } : State).phase = .exec ∧
    decode ({ load [] with phase := .exec, latch := 0x00050102, ie := true } : State).latch = .command (.ldi 1 5) ∧ ({ load [] with phase := .exec, latch := 0x00050102, ie := true } : State).schedule = [] ∧
    (scheduled [.engine] { load [] with phase := .exec, latch := 0x00050102, ie := true }).schedule = .engine :: [] := by decide +kernel

theorem witness_StepRunsTheLatchedCommandOrTheScheduledAccess_idle_and_access :
    (load []).phase = .idle ∧ (load []).schedule = [] ∧ vectorConfig.base + 0xFFFF = 0x3FFFF ∧
    (scheduled [.read .byte 0x3FFFF] (load [])).schedule = .read .byte ((load []).config.base + 0xFFFF) :: [] ∧
    (scheduled [.write .word 0x30000 7] (load [])).schedule = .write .word ((load []).config.base + 0) 7 :: [] := by decide +kernel

theorem witness_FaultsAreRecordedAndWithoutEffect :
    see (fun t => t.err) (step { load [(1, 7)] with phase := .exec, latch := 0x00421313 }) = some true ∧
    see (fun t => t.err) (step { load [] with phase := .exec, latch := 0 }) = some true ∧
    see (fun t => t.err) (step { load [] with phase := .exec, latch := 0x00012501 }) = some true ∧ (load []).err = false := by decide +kernel

/-- For the statements about every command (and for OnlyPackAndUnpackReachTheBuffer): one that completes and one that faults. -/
theorem witness_CommandsWriteOnlyTheirListedFlagsAndReadNone :
    see (fun t => t.err) (exec (.mov 5 2) (load [])) = some false ∧ see (fun t => t.err) (exec (.divmod 3 4 1 2) (load [])) = some true := by decide +kernel

theorem witness_OnlyMrtestAndRandDraw :
    see (fun t => t.draws.taken) (exec (.mov 5 2) (load [])) = some 0 ∧ see (fun t => t.draws.taken) (exec (.mov 5 2) (withDraws [1] (load []))) = some 0 ∧
    (withDraws [1] (load [])).regs = (load []).regs ∧ (Instr.mov 5 2).opcode ≠ .mrtest ∧ (Instr.mov 5 2).opcode ≠ .rand := by decide +kernel

/-- A state that meets the invariant, with a register at the end of its range, and bytes at both ends of BUF. -/
def invState : State := withBytes [(0, 1), (4095, 255)] (flagged [(1, 2 ^ 64 - 1), (15, 1)])

theorem witness_Inv : Inv invState :=
  { legal := by decide +kernel
    regs := by unfold RegsInRange; decide +kernel
    bufCanonical := by decide +kernel
    bufBelow := by decide +kernel
    busy := by decide +kernel
    zeroising := by decide +kernel
    errcode := by decide +kernel
    errHasCode := by decide +kernel }

theorem witness_EveryStepKeepsTheInvariant : Inv invState ∧ ∃ t, step invState = .next t :=
  ⟨witness_Inv, invState, rfl⟩

theorem witness_StepAnswersANextStateWithTheSameParameters :
    NextAccessInWindow (scheduled [.read .byte 0x30000] (load [])) ∧
    NextAccessInWindow (scheduled [.write .byte 0x3FFFF 1] (load [])) ∧ NextAccessInWindow (load []) ∧ (load []).config.Legal := 
  ⟨(by decide : inWindow vectorConfig 0x30000 = true), (by decide : inWindow vectorConfig 0x3FFFF = true), trivial, by decide +kernel⟩

theorem witness_AcceptanceLatchesTheWord :
    (load []).config.Legal ∧ (load []).phase = .idle ∧
    (scheduled [.write .word 0x3000C 5] (load [])).schedule = .write .word ((load []).config.base + 0x00C) 5 :: [] := by decide +kernel

theorem witness_WritesWhileBusyOnlySetOverrun :
    ({ load [] with phase := .exec, latch := 0x00050102, ie := true } : State).busy = true ∧ LegalAt .word 0x00C ∧ LegalAt .word 0x018 ∧ LegalAt .word 0x4000 ∧ LegalAt .byte 0xFFFF ∧
    BusyGuarded 0x00C ∧ BusyGuarded 0x018 ∧ BusyGuarded 0x4000 ∧ BusyGuarded 0xFFFF ∧ ¬ BusyGuarded 0x3FFC ∧
    LegalAt .word 0x000 ∧ LegalAt .word 0x010 ∧ LegalAt .word 0x014 ∧ LegalAt .word 0x01C ∧ LegalAt .word 0x020 ∧ LegalAt .word 0x3FFC := by
  unfold LegalAt BusyGuarded
  decide +kernel

theorem witness_ReadsWhileBusyAreUnconstrained :
    ({ load [] with phase := .exec, latch := 0x00050102, ie := true } : State).busy = true ∧ LegalAt .word 0x018 ∧ LegalAt .word 0x4000 ∧ LegalAt .half 0xFFFE ∧ LegalAt .byte 0xFFFF ∧
    2 ^ 32 - 1 < 256 ^ Width.word.bytes ∧ 255 < 256 ^ Width.byte.bytes ∧
    ({ load [] with busyReads := { supplied := [255], taken := 3 } } : State).busyReads.supplied = (255 : Word).toNat :: [] := by
  unfold LegalAt
  decide +kernel

theorem witness_IllegalAccessesAreRefused :
    accessLegal .half 0x8001 = false ∧ accessLegal .byte 0x00C = false ∧ accessLegal .word 0x7FFE = false ∧ accessLegal .half 0x7FFC = false ∧
    accessLegal .word 0x7FFC = true ∧ accessLegal .byte 0x8000 = true ∧ accessLegal .byte 0xFFFF = true := by decide +kernel

theorem witness_RegisterWindowReadsAndWritesWords :
    (load []).phase = .idle ∧ 0 < (load []).config.width / 32 ∧ 1 < (load []).config.width / 32 ∧
    (load []).config.width / 32 ≤ 2 ∧ (load []).config.width / 32 ≤ 255 := by decide +kernel

theorem witness_BufferWindowReadsAndWritesBytes :
    invState.buf.wf = true ∧ invState.phase = .idle ∧ LegalAt .byte (0x8000 + 0) ∧ LegalAt .byte (0x8000 + 4095) ∧
    LegalAt .word (0x8000 + 4092) ∧ LegalAt .half (0x8000 + 4096) ∧ LegalAt .byte (0x8000 + 0x7FFF) := by
  unfold LegalAt
  decide +kernel

theorem witness_ByteLanesCarryTheirOffsets :
    LegalAt .byte (0x8000 + 3) ∧ 3 % 4 ≤ 3 ∧ 3 < 3 % 4 + Width.byte.bytes ∧ LegalAt .half (0x8000 + 2) ∧ 2 % 4 ≤ 2 ∧
    3 < 2 % 4 + Width.half.bytes ∧ LegalAt .word (0x8000 + 0) ∧ 3 < 0 % 4 + Width.word.bytes ∧
    invState.phase = .idle ∧ invState.buf.wf = true ∧ 4 * (3 / 4) + 3 < invState.config.bufSize ∧
    0 < invState.config.width / 32 ∧ invState.config.width / 32 - 1 < 256 := by
  unfold LegalAt
  decide +kernel

theorem witness_XgcdGivesTheBezoutCoefficients :
    (7 : Reg) ≠ 8 ∧ (6 : Reg) ≠ 7 ∧ (6 : Reg) ≠ 8 := by decide +kernel

theorem witness_InvariantHoldsAfterReset :
    ({ width := 64, bufSize := 256, base := 0 } : Config).Legal ∧ ({ width := 8192, bufSize := 32768, base := 0x10000 } : Config).Legal := by decide +kernel

theorem witness_HostCommandRunsTheCommand :
    (load []).config.Legal ∧ (load []).phase = .idle ∧ Wait.poll 0 ≠ .interrupt ∧ Wait.poll 7 ≠ .interrupt ∧
    ({ load [] with ie := true } : State).ie = true ∧ (load []).ie = false := by decide +kernel

theorem witness_ControlRegistersReadAsTheMapSays :
    (load []).phase = .idle ∧ (0x020 ≤ 0x020 ∧ 0x020 < 0x4000 ∧ 0x020 % 4 = 0) ∧ (0x020 ≤ 0x3FFC ∧ 0x3FFC < 0x4000 ∧ 0x3FFC % 4 = 0) := by decide +kernel

theorem witness_ControlWritesChangeTheirFields :
    (0xFFFFFFFD : Word).getLsbD 1 = false ∧ (load []).phase = .idle := by decide +kernel

theorem witness_HostAccessesKeepTheOperands :
    ({ load [] with phase := .exec, latch := 0x00050102, ie := true } : State).busy = true ∧ ¬ (Width.word = .word ∧ 0x004 = 0x004 ∧ (0x1 : Word).getLsbD 1 = true) ∧ 0xFFFF < 0x10000 := by decide +kernel

theorem witness_InterruptFollowsDoneAndEnable :
    see (fun t => t.irq) (engineStep { load [] with phase := .exec, latch := 0x00050102, ie := true }) = some true ∧ ({ load [] with phase := .exec, latch := 0x00050102, ie := true } : State).phase = .exec ∧
    (0x2 : Word).getLsbD 1 = true ∧ (0x1 : Word).getLsbD 1 = false := by decide +kernel

theorem witness_BothResetsEnterZeroisation :
    (load []).config.Legal ∧ (scheduled [.hardReset] (load [])).schedule = .hardReset :: [] ∧ (0x2 : Word).getLsbD 1 = true ∧
    (scheduled [.write .word 0x30004 2] (load [])).schedule = .write .word ((load []).config.base + 0x004) 2 :: [] := by decide +kernel

theorem witness_ResetThenZeroisationGivesTheResetState_zeroise :
    ({ load [(6, 65)] with phase := .zeroise, ovr := true } : State).phase = .zeroise ∧ (load [(6, 65)]).schedule = [] ∧
    (scheduled [.engine, .hardReset] (load [])).schedule = .engine :: [.hardReset] := by decide +kernel

theorem witness_ResetThenZeroisationGivesTheResetState :
    (load []).config.Legal ∧ (scheduled [.hardReset, .engine] (load [])).schedule = .hardReset :: .engine :: [] := by decide +kernel

theorem witness_SubWrapsAndReportsBorrow :
    (load [(1, 2 ^ 64 - 1), (2, 2 ^ 64 - 1)]).reg 2 ≤ (load [(1, 2 ^ 64 - 1), (2, 2 ^ 64 - 1)]).reg 1 ∧
    (load [(1, 2 ^ 64 - 1), (2, 2 ^ 64 - 1)]).reg 1 < 2 ^ (load []).config.width := by decide +kernel

theorem witness_DivmodGivesQuotientAndRemainder :
    (load []).reg 2 = 0 ∧ (load [(2, 1)]).reg 2 ≠ 0 ∧ (load [(2, 2 ^ 64 - 1)]).reg 2 ≠ 0 := by decide +kernel

theorem witness_ShrShiftsByTheImmediate :
    (load [(3, 2 ^ 64 - 1)]).reg 3 < 2 ^ (load []).config.width ∧ (load []).config.width ≤ (64 : BitVec 8).toNat ∧
    (load []).config.width ≤ (255 : BitVec 8).toNat := by decide +kernel

theorem witness_ShlvShiftsByAnyCount_and_ShrvShiftsByAnyCount :
    (load []).config.width ≤ (load [(6, 64)]).reg 6 ∧ (load []).config.width ≤ (load [(6, 2 ^ 64 - 1)]).reg 6 ∧
    (load [(1, 2 ^ 64 - 1)]).reg 1 < 2 ^ (load []).config.width := by decide +kernel

theorem witness_BitlenGivesTheBitLength :
    (load []).reg 1 = 0 ∧ (load [(1, 1)]).reg 1 ≠ 0 ∧ (load [(1, 2 ^ 64 - 1)]).reg 1 ≠ 0 := by decide +kernel

theorem witness_XgcdCoefficientsAreExactAsSignedValues :
    (load []).config.Legal ∧ (load [(2, 2 ^ 64 - 1), (5, 2 ^ 64 - 2)]).reg 2 < 2 ^ (load []).config.width ∧
    (load [(2, 2 ^ 64 - 1), (5, 2 ^ 64 - 2)]).reg 5 < 2 ^ (load []).config.width ∧
    see (fun t => (t.reg 6, t.reg 7, t.reg 8)) (exec (.xgcd 6 7 8 2 5) (load [(2, 2 ^ 64 - 1), (5, 2 ^ 64 - 2)])) = some (1, 1, 2 ^ 64 - 1) := by decide +kernel

theorem witness_ModinvGivesTheInverse :
    (load []).reg 5 = 0 ∧ ((load [(2, 6), (5, 9)]).reg 5 ≠ 0 ∧ Nat.gcd ((load [(2, 6), (5, 9)]).reg 2) ((load [(2, 6), (5, 9)]).reg 5) ≠ 1) ∧
    ((load [(5, 1)]).reg 5 ≠ 0 ∧ Nat.gcd ((load [(5, 1)]).reg 2) ((load [(5, 1)]).reg 5) = 1) := by decide +kernel

theorem witness_MrtestAcceptsWhenEveryRoundPasses :
    (load []).reg 1 ≤ 1 ∧ (load [(1, 1)]).reg 1 ≤ 1 ∧ (load [(1, 4)]).reg 1 = 4 ∧ (load [(1, 2)]).reg 1 = 2 ∧ (load [(1, 3)]).reg 1 = 3 ∧
    5 ≤ (load [(1, 5)]).reg 1 ∧ 5 ≤ (load [(1, 2 ^ 64 - 1)]).reg 1 := by decide +kernel

theorem witness_MrtestAcceptsEveryPrime :
    Nat.Prime ((load [(1, 97)]).reg 1) ∧ see (fun t => t.flags.p) (exec (.mrtest 1 2) (withDraws [3, 95] (load [(1, 97)]))) = some true :=
  ⟨by rw [show (load [(1, 97)]).reg 1 = 97 by decide +kernel]; norm_num, by decide +kernel⟩

theorem witness_RandDrawsBelowItsBound :
    (load []).reg 2 = 0 ∧ (load [(2, 1)]).reg 2 ≠ 0 ∧ 0 < (load [(2, 1)]).reg 2 ∧ 16 < (load [(2, 17)]).reg 2 ∧
    (withDraws [16, 1] (load [(2, 17)])).draws.supplied = 16 :: [1] := by decide +kernel

theorem witness_BsizeGivesTheBlockSize :
    (load []).reg 1 = 0 ∧ (load [(1, 1)]).reg 1 ≠ 0 ∧ (2 ^ (1 - 1) ≤ (load [(1, 1)]).reg 1 ∧ (load [(1, 1)]).reg 1 < 2 ^ 1) ∧
    (2 ^ (9 - 1) ≤ (load [(1, 256)]).reg 1 ∧ (load [(1, 256)]).reg 1 < 2 ^ 9) := by decide +kernel

theorem witness_PackReadsALittleEndianChunk_and_UnpackWritesTheLowDigits :
    (load [(5, 9)]).reg 5 > (load []).config.width / 8 ∧ (load [(4, 4095), (5, 2)]).reg 4 + (load [(4, 4095), (5, 2)]).reg 5 > (load []).config.bufSize ∧
    (load [(5, 8)]).reg 5 ≤ (load []).config.width / 8 ∧ (load [(4, 4088), (5, 8)]).reg 4 + (load [(4, 4088), (5, 8)]).reg 5 ≤ (load []).config.bufSize ∧
    (load [(4, 4096)]).reg 4 + (load [(4, 4096)]).reg 5 ≤ (load []).config.bufSize ∧
    see (fun t => t.errcode) (exec (.pack 6 4 5 1) (withBytes [(0, 65)] (load [(5, 1), (1, 65)]))) = some 6 ∧
    see (fun t => (t.errcode, t.reg 6)) (exec (.pack 6 4 5 1) (withBytes [(0, 65)] (load [(5, 1), (1, 66)]))) = some (0, 65) ∧
    invState.buf.wf = true := by decide +kernel

theorem witness_MarkerGivesTheTrailingLength :
    (load []).reg 3 = 0 ∧ (load [(3, 1)]).reg 3 ≠ 0 := by decide +kernel

/-- One input for each clause: k = 0, r = k, r above 0 with m = 0, a length of 2^64, the last length that fits, and the largest marker. -/
theorem witness_DlenGivesThePayloadLength :
    see (fun t => t.errcode) (exec (.dlen 12 11 9 3) (load [])) = some 8 ∧
    see (fun t => t.errcode) (exec (.dlen 12 11 9 3) (load [(9, 2), (3, 2)])) = some 9 ∧
    see (fun t => t.errcode) (exec (.dlen 12 11 9 3) (load [(9, 1), (3, 2)])) = some 9 ∧
    see (fun t => t.errcode) (exec (.dlen 12 11 9 3) (load [(11, 2 ^ 63), (3, 2)])) = some 9 ∧
    see (fun t => t.errcode) (exec (.dlen 12 11 9 3) (load [(11, 2 ^ 63 - 1), (3, 2)])) = some 0 ∧
    see (fun t => t.errcode) (exec (.dlen 12 11 9 3) (load [(11, 1), (9, 1), (3, 2)])) = some 0 := by decide +kernel

theorem witness_ModmulReducesTheExactProduct_and_ModexpGivesTheExactPower :
    (load []).reg 1 = 0 ∧ (load [(1, 1)]).reg 1 ≠ 0 := by decide +kernel

theorem witness_PackThenUnpackRestoresTheChunk :
    invState.buf.wf = true ∧ (load [(5, 2)]).reg 5 ≤ (load []).config.width / 8 ∧
    see (fun t => (t.err, see (fun u => u.buf) (exec (.unpack 8 5 6) t)))
      (exec (.pack 6 4 5 1) (withBytes [(0, 72), (1, 105)] (load [(5, 2), (1, 1022117), (8, 4094)]))) =
      some (false, some [(0, 72), (1, 105), (4094, 72), (4095, 105)]) := by decide +kernel

theorem witness_DlenInvertsMarker :
    (load [(8, 3), (3, 2)]).reg 3 ≠ 0 ∧ (load [(8, 3), (3, 2)]).reg 8 < 2 ^ (load []).config.width ∧
    see (fun t => t.reg 9) (exec (.marker 9 8 3) (load [(8, 3), (3, 2)])) = some 1 ∧ chunkCount 3 2 = 2 ∧ chunkCount 0 2 = 0 ∧
    chunkLength 3 2 0 = 2 ∧ chunkLength 3 2 1 = 1 := by decide +kernel

theorem witness_DecodeInvertsEncode :
    (decodeBlocks (encodeBlocks [0, 255, 0] 1) 1).toOption = some [0, 255, 0] ∧ (decodeBlocks (encodeBlocks [] 1) 1).toOption = some [] := by decide +kernel

theorem witness_DecryptInvertsEncrypt :
    Nat.Prime 61 ∧ Nat.Prime 53 ∧ 61 ≠ 53 ∧ 256 ≤ 61 * 53 ∧ 17 * 2753 % ((61 - 1) * (53 - 1)) = 1 % ((61 - 1) * (53 - 1)) ∧
    Nat.Prime 3 ∧ Nat.Prime 5 ∧ 3 ≠ 5 ∧ 3 * 5 < 256 ∧ 7 * 7 % ((3 - 1) * (5 - 1)) = 1 % ((3 - 1) * (5 - 1)) := by norm_num

/-- A state with the smallest BUF, and one whose blocks are longer than BUF. -/
def smallState : State := State.resetOf { width := 64, bufSize := 256, base := 0 }

def wideState : State := State.resetOf { width := 8192, bufSize := 256, base := 0 }

theorem witness_Inv_small : Inv smallState ∧ Inv wideState :=
  ⟨{ legal := by decide +kernel, regs := by unfold RegsInRange; decide +kernel, bufCanonical := rfl, bufBelow := rfl
     busy := by decide, zeroising := by decide, errcode := by decide, errHasCode := by decide },
   { legal := by decide +kernel, regs := by unfold RegsInRange; decide +kernel, bufCanonical := rfl, bufBelow := rfl
     busy := by decide, zeroising := by decide, errcode := by decide, errHasCode := by decide }⟩

/-- A payload that just fits, one that needs two segments, and one of which no chunk fits. -/
theorem witness_EncryptOnEngineComputesEncrypt :
    smallState.phase = .idle ∧ 17 < 2 ^ smallState.config.width ∧ 3233 < 2 ^ smallState.config.width ∧
    (List.replicate 256 (65 : Byte)).length ≤ smallState.config.bufSize ∧
    smallState.config.bufSize < (List.replicate 257 (65 : Byte)).length ∧ blockSize 3233 ≤ smallState.config.bufSize ∧
    (List.replicate 257 (65 : Byte)).length < 2 ^ smallState.config.width ∧
    wideState.phase = .idle ∧ wideState.config.bufSize < (List.replicate 257 (65 : Byte)).length ∧
    wideState.config.bufSize < blockSize (2 ^ 2056) ∧ 2 ^ 2056 < 2 ^ wideState.config.width ∧
    0 < 2 ^ smallState.config.width := by decide +kernel

/-- Values that decode to exactly BUFSZ bytes, and a sequence that does not decode. -/
theorem witness_DecryptOnEngineComputesDecrypt :
    (decryptBlocks (List.replicate 257 0) 2753 3233).toOption.map List.length = some smallState.config.bufSize ∧
    (decryptBlocks [] 2753 3233).toOption = none ∧ smallState.phase = .idle ∧ 2753 < 2 ^ smallState.config.width ∧
    (∀ v ∈ List.replicate 257 0, v < 2 ^ smallState.config.width) ∧ 0 < 2 ^ smallState.config.width := by decide +kernel

/-- The smallest key: e = 7, p = 3 and q = 5 drawn, and the 40 bases of the test of 5 (each is 3). -/
def keyState : State := withDraws ([7, 3, 5] ++ List.replicate 40 3) invState

theorem witness_GeneratedKeysMeetTheirInvariants_state : Inv keyState ∧ keyState.phase = .idle :=
  ⟨{ witness_Inv with }, rfl⟩

theorem witness_GeneratedKeysMeetTheirInvariants_run :
    (generateOnEngine 3 3 1 keyState).toOption.map Prod.fst = some { n := 15, e := 7, d := 7 } := by decide +kernel

end Sys2Proof.Tests
end

section
/-! SUPPORT. Which part of the state a command reads: the snapshot (the parameters, the registers, BUF and FLAGS), and for MRTEST and
RAND the random source as well (R18). -/

namespace Sys2Proof.Machine

/-- The state with the snapshot of `s` (R280): parameters, registers, BUF and FLAGS of `s`, and every other field of `c`. -/
def State.withSnapshotOf (c s : State) : State :=
  { c with config := s.config, regs := s.regs, buf := s.buf, flags := s.flags }

theorem State.withSnapshotOf_self (s : State) : s.withSnapshotOf s = s := rfl

/-- A state that already has the snapshot of `s` is unchanged. -/
theorem State.withSnapshotOf_of_agree {c s : State} (hconfig : c.config = s.config) (hregs : c.regs = s.regs)
    (hbuf : c.buf = s.buf) (hflags : c.flags = s.flags) : c.withSnapshotOf s = c := by
  rw [withSnapshotOf, ← hconfig, ← hregs, ← hbuf, ← hflags]

/-- `x` is the outcome of a command from some state, and `x'` its outcome with the fields of `c` outside the snapshot: both are next
states with the same snapshot, and `x'` has the random source of `c`. -/
def SnapshotDetermines (c : State) (x x' : Host.Outcome State Fault Refusal) : Prop :=
  ∃ t c' : State, x = .next t ∧ x' = .next (c'.withSnapshotOf t) ∧ c'.draws = c.draws

theorem snapshotDetermines_complete (c u : State) : SnapshotDetermines c (complete u) (complete (c.withSnapshotOf u)) :=
  ⟨u.finish, c.finish, rfl, rfl, rfl⟩

theorem snapshotDetermines_raiseFault (code : FaultCode) (c s : State) :
    SnapshotDetermines c (raiseFault code s) (raiseFault code (c.withSnapshotOf s)) :=
  ⟨(s.recordFault code).finish, (c.recordFault code).finish, rfl, rfl, rfl⟩

theorem snapshotDetermines_ite {c : State} {p : Prop} [Decidable p] {x x' y y' : Host.Outcome State Fault Refusal}
    (hx : SnapshotDetermines c x x') (hy : SnapshotDetermines c y y') :
    SnapshotDetermines c (if p then x else y) (if p then x' else y') := by
  split
  · exact hx
  · exact hy

/-- Every command but MRTEST and RAND: its branches test, and its writes compute, only what the snapshot holds, so each branch is the
same one for both states. The cases follow the command's own tree of faults and its completion. -/
theorem exec_snapshotDetermines {i : Instr} (hmrtest : i.opcode ≠ .mrtest) (hrand : i.opcode ≠ .rand) (c s : State) :
    SnapshotDetermines c (exec i s) (exec i (c.withSnapshotOf s)) := by
  have completes := snapshotDetermines_complete c
  have faults := fun code => snapshotDetermines_raiseFault code c s
  cases i with
  | mrtest => exact absurd rfl hmrtest
  | rand => exact absurd rfl hrand
  | mov | ldi | add | sub | mul | cmp | shl | shr | shlv | shrv | bitlen | gcd | xgcd => exact completes _
  | divmod | bsize | unpack | marker | modmul | modexp => exact snapshotDetermines_ite (faults _) (completes _)
  | modinv | pack => exact snapshotDetermines_ite (faults _) (snapshotDetermines_ite (faults _) (completes _))
  | dlen =>
    exact snapshotDetermines_ite (faults _) (snapshotDetermines_ite (faults _)
      (snapshotDetermines_ite (faults _) (snapshotDetermines_ite (faults _) (completes _))))

/-- Every command but MRTEST and RAND takes no draw (R18). -/
theorem exec_draws {i : Instr} {s t : State} (hmrtest : i.opcode ≠ .mrtest) (hrand : i.opcode ≠ .rand)
    (h : exec i s = .next t) : t.draws = s.draws := by
  obtain ⟨u, c, -, hnext, hdraws⟩ := exec_snapshotDetermines hmrtest hrand s s
  rw [State.withSnapshotOf_self, h, Host.Outcome.next.injEq] at hnext
  rw [hnext, ← hdraws]
  rfl

/-- Settles O10: the second state is itself with the snapshot of the first, so both runs take the same branch of the command. -/
theorem onlyMrtestAndRandDraw : Obligations.OnlyMrtestAndRandDraw := by
  intro i s t s' t' hmrtest hrand h h' hconfig hregs hbuf hflags
  refine ⟨exec_draws hmrtest hrand h, exec_draws hmrtest hrand h', ?_⟩
  obtain ⟨u, c, hu, hu', -⟩ := exec_snapshotDetermines hmrtest hrand s' s
  rw [h, Host.Outcome.next.injEq] at hu
  rw [State.withSnapshotOf_of_agree hconfig hregs hbuf hflags, h', Host.Outcome.next.injEq] at hu'
  rw [hu, hu']
  exact ⟨rfl, rfl, rfl⟩

/-! SUPPORT. The step by the head of the schedule (R17): what each kind of move is. -/

/-- A step of an engine with legal parameters is its move. -/
theorem step_eq_move {s : State} (h : s.config.Legal) : step s = move s := if_pos h

/-- A scheduled engine move is the engine's, with the rest of the schedule still to come. -/
theorem move_engine {s : State} {rest : List Move} (h : s.schedule = .engine :: rest) :
    move s = engineStep { s with schedule := rest } := by
  simp [move, h]

theorem move_read {s : State} {width : Width} {addr : Nat} {rest : List Move} (h : s.schedule = .read width addr :: rest) :
    move s = busRead width addr { s with schedule := rest } := by
  simp [move, h]

theorem move_write {s : State} {width : Width} {addr : Nat} {lanes : Word} {rest : List Move}
    (h : s.schedule = .write width addr lanes :: rest) :
    move s = busWrite width addr lanes { s with schedule := rest } := by
  simp [move, h]

/-- An idle engine waits (R314). -/
theorem engineStep_idle {s : State} (h : s.phase = .idle) : engineStep s = .next s := by
  simp [engineStep, h]

/-- Every offset of the window is inside it (R60). -/
theorem inWindow_base_add {c : Config} {offset : Nat} (h : offset < 0x10000) : inWindow c (c.base + offset) = true := by
  rw [inWindow, decide_eq_true_eq]
  omega

/-- A bus read at an offset from BASE is the host read at that offset. -/
theorem busRead_base_add {s : State} {offset : Nat} (width : Width) (h : offset < 0x10000) :
    busRead width (s.config.base + offset) s = .next (s.hostRead width offset) :=
  busRead_next.mpr ⟨inWindow_base_add h, by rw [Nat.add_sub_cancel_left]⟩

/-- A bus write at an offset from BASE is the host write at that offset. -/
theorem busWrite_base_add {s : State} {offset : Nat} (width : Width) (lanes : Word) (h : offset < 0x10000) :
    busWrite width (s.config.base + offset) lanes s = .next (s.hostWrite width offset lanes) :=
  busWrite_next.mpr ⟨inWindow_base_add h, by rw [Nat.add_sub_cancel_left]⟩

/-- In phase EXEC a step with no move left completes the latch (R17, R19). -/
theorem step_exec_nil {s : State} (hlegal : s.config.Legal) (hphase : s.phase = .exec) (h : s.schedule = []) :
    step s = completeLatched s := by
  rw [step_eq_move hlegal, move_nil h, engineStep_exec hphase]

/-- In phase EXEC a scheduled engine move completes the latch (R17, R281). -/
theorem step_exec_engine {s : State} {rest : List Move} (hlegal : s.config.Legal) (hphase : s.phase = .exec)
    (h : s.schedule = .engine :: rest) : step s = completeLatched { s with schedule := rest } := by
  rw [step_eq_move hlegal, move_engine h]
  exact engineStep_exec hphase

/-- Settles O5, by the kind of move at the head of the schedule. -/
theorem stepRunsTheLatchedCommandOrTheScheduledAccess : Obligations.StepRunsTheLatchedCommandOrTheScheduledAccess := by
  intro s hlegal
  refine ⟨fun hphase => ⟨step_exec_nil hlegal hphase, fun _ => step_exec_engine hlegal hphase⟩,
    fun i hphase hdecode => ⟨fun h => ?command, fun rest h => ?scheduledCommand⟩, fun hphase h => ?idle,
    fun width offset rest hoffset h => ?read, fun width offset lanes rest hoffset h => ?write⟩
  case command => rw [step_exec_nil hlegal hphase h, completeLatched_command hdecode]
  case scheduledCommand =>
    rw [step_exec_engine hlegal hphase h]
    exact completeLatched_command hdecode
  case idle => rw [step_eq_move hlegal, move_nil h, engineStep_idle hphase]
  case read =>
    rw [step_eq_move hlegal, move_read h]
    exact busRead_base_add width hoffset
  case write =>
    rw [step_eq_move hlegal, move_write h]
    exact busWrite_base_add width lanes hoffset

end Sys2Proof.Machine
end

section
/-! SUPPORT. What a command does to the state, said once (R282, R283): the invariant under each update of the state, the range of
each result, and the two ends of a command. -/

namespace Sys2Proof.Machine

/-! ### The invariant under the updates of the state -/

/-- A register keeps its range when the value written is in it (R20). -/
theorem Inv.setReg {s : State} (h : Inv s) {v : Nat} (hv : v < 2 ^ s.width) (d : Reg) : Inv (s.setReg d v) :=
  { h with
    regs := fun r => by
      rw [State.reg_setReg, State.width_setReg]
      split
      · exact hv
      · exact h.regs r }

theorem Inv.setBuf {s : State} (h : Inv s) {m : Memory} (hwf : m.wf = true) (hbelow : m.below s.config.bufSize = true) :
    Inv (s.setBuf m) :=
  { h with bufCanonical := hwf, bufBelow := hbelow }

theorem Inv.setFlags {s : State} (h : Inv s) (f : Flags) : Inv (s.setFlags f) := { h with }

theorem Inv.setDraws {s : State} (h : Inv s) (d : FreeStream) : Inv (s.setDraws d) := { h with }

theorem Inv.overrun {s : State} (h : Inv s) : Inv s.overrun := { h with }

theorem Inv.respond {s : State} (h : Inv s) (r : BusResponse) : Inv (s.respond r) := { h with }

/-- An acceptance clears DONE, ERR and ERRCODE as it sets BUSY (R280). -/
theorem Inv.accept {s : State} (h : Inv s) (w : Word) : Inv (s.accept w) :=
  { h with busy := fun _ => ⟨rfl, rfl, rfl⟩, zeroising := nofun, errcode := Nat.zero_le _, errHasCode := nofun }

/-- A completion ends in an idle engine, of which the BUSY clauses say nothing (R282). -/
theorem Inv.finish {s : State} (h : Inv s) : Inv s.finish :=
  { h with busy := fun hidle => absurd rfl hidle, zeroising := nofun }

/-- A fault sets ERR together with a code of R284 (R283). -/
theorem Inv.fault {s : State} (h : Inv s) (code : FaultCode) : Inv (s.recordFault code).finish :=
  { h with
    busy := fun hidle => absurd rfl hidle
    zeroising := nofun
    errcode := code.byte_range.2
    errHasCode := fun _ => code.byte_range.1 }

theorem Inv.resetEntry {s : State} (h : Inv s) : Inv s.resetEntry :=
  { h with
    busy := fun _ => ⟨rfl, rfl, rfl⟩
    zeroising := fun _ => ⟨rfl, rfl⟩
    errcode := Nat.zero_le _
    errHasCode := nofun }

theorem Inv.zeroiseAll {s : State} (h : Inv s) : Inv s.zeroiseAll :=
  { h with
    regs := fun r => by simp
    bufCanonical := rfl
    bufBelow := rfl
    busy := fun hidle => absurd rfl hidle
    zeroising := nofun }

/-- A write of STATUS clears ERR or keeps it with its code (R29). -/
theorem Inv.writeStatus {s : State} (h : Inv s) (w : Word) : Inv (s.writeStatus w) :=
  { h with
    busy := fun hbusy => by
      obtain ⟨hdone, herr, hcode⟩ := h.busy hbusy
      simp [State.writeStatus, hdone, herr, hcode]
    errHasCode := fun herr => h.errHasCode (Bool.and_eq_true_iff.mp herr).1 }

theorem Inv.resetOf {c : Config} (h : c.Legal) : Inv (State.resetOf c) where
  legal := h
  regs r := by simp
  bufCanonical := rfl
  bufBelow := rfl
  busy hidle := absurd rfl hidle
  zeroising := nofun
  errcode := Nat.zero_le _
  errHasCode := nofun

/-- Settles O11: registers, BUF and the fault record are all 0. -/
theorem invariantHoldsAfterReset : Obligations.InvariantHoldsAfterReset :=
  ⟨fun _ hlegal => Inv.resetOf hlegal, Inv.resetOf (by decide)⟩

/-! ### The range of the results -/

theorem Inv.width_ge {s : State} (h : Inv s) : 64 ≤ s.width := by
  obtain ⟨⟨-, hge, -⟩, -, -⟩ := h.legal
  exact hge

/-- Every 16-bit immediate fits in a register: W is at least 64 (R8). -/
theorem imm16Value_lt {W : Nat} (h : 64 ≤ W) (imm : BitVec 16) : imm16Value imm < 2 ^ W :=
  imm.isLt.trans_le (Nat.pow_le_pow_right (by decide) (by omega))

theorem shiftRight_le (W v k : Nat) : shiftRight W v k ≤ v := by
  unfold shiftRight
  split
  · exact Nat.div_le_self _ _
  · exact Nat.zero_le _

theorem bitlen_le_of_lt {W v : Nat} (h : v < 2 ^ W) : bitlen v ≤ W := by
  by_cases hv : v = 0
  · simp [bitlen, hv]
  · obtain ⟨-, hlow, -⟩ := bitlen_bounds hv
    have : bitlen v - 1 < W := (Nat.pow_lt_pow_iff_right (by decide)).mp (hlow.trans_lt h)
    omega

/-- The loop of R161 only moves and reduces its operands. -/
theorem euclidLoop_lt {B : Nat} (fuel : Nat) {u v : Nat} (hu : u < B) (hv : v < B) : euclidLoop fuel u v < B := by
  induction fuel generalizing u v with
  | zero => exact hu
  | succ fuel ih =>
    rw [euclidLoop]
    split
    · exact hu
    · exact ih hv ((Nat.mod_le u v).trans_lt hu)

/-- The loop of R162 only moves and reduces `r0` and `r1`. -/
theorem bezoutLoop_r0_lt {B : Nat} (fuel : Nat) {x : Bezout} (h0 : x.r0 < B) (h1 : x.r1 < B) : (bezoutLoop fuel x).r0 < B := by
  induction fuel generalizing x with
  | zero => exact h0
  | succ fuel ih =>
    rw [bezoutLoop]
    split
    · exact h0
    · exact ih h1 ((Nat.sub_le _ _).trans_lt h0)

theorem extendedEuclid_r0_lt {a b B : Nat} (ha : a < B) (hb : b < B) : (extendedEuclid a b).r0 < B :=
  bezoutLoop_r0_lt b ha hb

/-- The floor remainder by a positive modulus is below it. -/
theorem toNat_emod_lt {m : Nat} (h : m ≠ 0) (v : Int) : (v % (m : Int)).toNat < m := by
  have := Int.emod_nonneg v (Int.natCast_ne_zero.mpr h)
  have := Int.emod_lt_of_pos v (Int.natCast_pos.mpr (Nat.pos_of_ne_zero h))
  omega

theorem powModLoop_lt {m : Nat} (h : m ≠ 0) (fuel b e acc : Nat) : powModLoop m fuel b e acc < m := by
  have reduced (n : Nat) : n % m < m := Nat.mod_lt n (Nat.pos_of_ne_zero h)
  induction fuel generalizing b e acc with
  | zero => exact reduced acc
  | succ fuel ih =>
    rw [powModLoop]
    split
    · exact reduced acc
    · exact ih _ _ _

theorem powMod_lt {m : Nat} (h : m ≠ 0) (b e : Nat) : powMod b e m < m := powModLoop_lt h _ _ _ _

theorem draw_zero_lt {n : Nat} (h : n ≠ 0) (st : FreeStream) : (draw 0 n st).1 < n := by
  rw [draw_eq]
  simpa using (elementOf_mem 0 n (st.nth Config.freeDraw 0) h).2

/-! ### The ends of a command -/

/-- `u` is `s` with the writes a command may make before its completion (R282): registers, flags, BUF for UNPACK alone (R36), and
the random source. They keep the invariant. -/
structure CommandWrites (i : Instr) (s u : State) : Prop where
  frame : u = { s with regs := u.regs, buf := u.buf, flags := u.flags, draws := u.draws }
  buf : i.opcode ≠ .unpack → u.buf = s.buf
  inv : Inv s → Inv u

/-- The writes of most commands: one register, with a value in range, and flags. -/
theorem commandWrites_setReg {i : Instr} {s : State} {v : Nat} (d : Reg) (f : Flags) (hv : Inv s → v < 2 ^ s.width) :
    CommandWrites i s ((s.setReg d v).setFlags f) :=
  ⟨rfl, fun _ => rfl, fun h => (h.setReg (hv h) d).setFlags f⟩

/-- `x` is the end of a command on `s` (R282): the completion of writes that satisfy `Writes`, or one of `faults`. -/
inductive CommandEnds (faults : List FaultCode) (Writes : State → Prop) (s : State) : Host.Outcome State Fault Refusal → Prop where
  | completes {u : State} (h : Writes u) : CommandEnds faults Writes s (complete u)
  | faults {code : FaultCode} (h : code ∈ faults) : CommandEnds faults Writes s (raiseFault code s)

/-- A command that checks for a fault of its row before it goes on. -/
theorem CommandEnds.guard {faults : List FaultCode} {Writes : State → Prop} {s : State} {p : Prop} [Decidable p]
    {code : FaultCode} {x : Host.Outcome State Fault Refusal} (hcode : code ∈ faults)
    (hx : ¬ p → CommandEnds faults Writes s x) : CommandEnds faults Writes s (if p then raiseFault code s else x) := by
  split
  · exact .faults hcode
  · exact hx ‹_›

/-- Every command ends in a completion or in a fault of its row of R285. The cases follow each command's own tree of faults; a
result is in range because it is truncated, or at most an operand, or below a modulus that is an operand. -/
theorem exec_ends (i : Instr) (s : State) : CommandEnds (ownFaults i.opcode) (CommandWrites i s) s (exec i s) := by
  cases i with
  | mov d a => exact .completes (commandWrites_setReg d _ fun h => h.regs a)
  | ldi d imm => exact .completes (commandWrites_setReg d _ fun h => imm16Value_lt h.width_ge imm)
  | add d | mul d | shl d | shlv d => exact .completes (commandWrites_setReg d _ fun _ => truncW_lt _ _)
  | sub d => exact .completes (commandWrites_setReg d _ fun _ => truncIntW_lt _ _)
  | shr d a | shrv d a => exact .completes (commandWrites_setReg d _ fun h => (shiftRight_le _ _ _).trans_lt (h.regs a))
  | cmp => exact .completes ⟨rfl, fun _ => rfl, fun h => h.setFlags _⟩
  | mrtest => exact .completes ⟨rfl, fun _ => rfl, fun h => (h.setDraws _).setFlags _⟩
  | bitlen d a =>
    exact .completes (commandWrites_setReg d _ fun h => (bitlen_le_of_lt (h.regs a)).trans_lt Nat.lt_two_pow_self)
  | gcd d a b => exact .completes (commandWrites_setReg d _ fun h => euclidLoop_lt _ (h.regs a) (h.regs b))
  | xgcd d c e a b =>
    exact .completes ⟨rfl, fun _ => rfl, fun h =>
      (((h.setReg (extendedEuclid_r0_lt (h.regs a) (h.regs b)) d).setReg (truncIntW_lt _ _) c).setReg
        (truncIntW_lt _ _) e).setFlags _⟩
  | divmod d c a b =>
    exact .guard (.head _) fun _ => .completes ⟨rfl, fun _ => rfl, fun h =>
      ((h.setReg ((Nat.div_le_self _ _).trans_lt (h.regs a)) d).setReg
        ((Nat.mod_le _ _).trans_lt (h.regs a)) c).setFlags _⟩
  | modinv d a b =>
    exact .guard (.head _) fun hb => .guard (.tail _ (.head _)) fun _ =>
      .completes (commandWrites_setReg d _ fun h => (toNat_emod_lt hb _).trans (h.regs b))
  | rand d a =>
    exact .guard (.head _) fun ha => .completes ⟨rfl, fun _ => rfl, fun h =>
      ((h.setReg ((draw_zero_lt ha _).trans (h.regs a)) d).setDraws _).setFlags _⟩
  | bsize d a =>
    exact .guard (.head _) fun _ => .completes (commandWrites_setReg d _ fun h =>
      calc (bitlen (s.reg a) - 1) / 8 ≤ bitlen (s.reg a) := by omega
        _ ≤ s.width := bitlen_le_of_lt (h.regs a)
        _ < 2 ^ s.width := Nat.lt_two_pow_self)
  | pack d a b c =>
    exact .guard (.head _) fun _ => .guard (.tail _ (.head _)) fun hfits =>
      .completes (commandWrites_setReg d _ fun h => (Nat.lt_of_not_le hfits).trans (h.regs c))
  | unpack a b c =>
    refine .guard (.head _) fun hrange => .completes ⟨rfl, fun h => absurd rfl h, fun h => ?_⟩
    rw [bufRangeBad_iff] at hrange
    exact (h.setBuf (memWrite_wf _ _ _ _ h.bufCanonical) (memWrite_below _ _ _ _ _ (by omega) h.bufBelow)).setFlags _
  | marker d a b =>
    exact .guard (.head _) fun _ =>
      .completes (commandWrites_setReg d _ fun h => (Nat.mod_le _ _).trans_lt (h.regs a))
  | dlen d a b c =>
    exact .guard (.head _) fun _ => .guard (.tail _ (.head _)) fun _ =>
      .guard (.tail _ (.head _)) fun _ => .guard (.tail _ (.head _)) fun hfits =>
        .completes (commandWrites_setReg d _ fun _ => Nat.lt_of_not_le hfits)
  | modmul d a b c =>
    exact .guard (.head _) fun hc =>
      .completes (commandWrites_setReg d _ fun h => (Nat.mod_lt _ (Nat.pos_of_ne_zero hc)).trans (h.regs c))
  | modexp d a b c =>
    exact .guard (.head _) fun hc =>
      .completes (commandWrites_setReg d _ fun h => (powMod_lt hc _ _).trans (h.regs c))

end Sys2Proof.Machine
end

section
/-! SUPPORT. What a step does, said once: every move keeps the parameters and the invariant. -/

namespace Sys2Proof.Machine

/-! ### The outcome of a command -/

/-- An end of a command that answers `t` is the completion of its writes, or a fault with its record (R282, R283). -/
theorem CommandEnds.next {faults : List FaultCode} {Writes : State → Prop} {s t : State}
    {x : Host.Outcome State Fault Refusal} (h : CommandEnds faults Writes s x) (hx : x = .next t) :
    (∃ u, Writes u ∧ t = u.finish) ∨ ∃ code ∈ faults, t = (s.recordFault code).finish := by
  cases h with
  | completes hu => exact .inl ⟨_, hu, complete_next.mp hx⟩
  | faults hcode => exact .inr ⟨_, hcode, raiseFault_next.mp hx⟩

/-- Each end of a command is a next state (R282). -/
theorem CommandEnds.exists_next {faults : List FaultCode} {Writes : State → Prop} {s : State}
    {x : Host.Outcome State Fault Refusal} (h : CommandEnds faults Writes s x) : ∃ t, x = .next t := by
  cases h with
  | completes => exact ⟨_, rfl⟩
  | faults => exact ⟨_, rfl⟩

/-- What a command that answers `t` has done: writes and a completion, or a fault of its row. -/
theorem exec_next_cases {i : Instr} {s t : State} (h : exec i s = .next t) :
    (∃ u, CommandWrites i s u ∧ t = u.finish) ∨ ∃ code ∈ ownFaults i.opcode, t = (s.recordFault code).finish :=
  (exec_ends i s).next h

/-! ### What every move keeps -/

/-- `t` has the parameters of `s`, and the invariant if `s` has it. -/
structure Keeps (s t : State) : Prop where
  config : t.config = s.config
  inv : Inv s → Inv t

theorem Keeps.refl (s : State) : Keeps s s := ⟨rfl, id⟩

theorem Keeps.trans {s t u : State} (h : Keeps s t) (h' : Keeps t u) : Keeps s u :=
  ⟨h'.config.trans h.config, h'.inv ∘ h.inv⟩

theorem keeps_schedule (s : State) (rest : List Move) : Keeps s { s with schedule := rest } := ⟨rfl, fun h => { h with }⟩

theorem keeps_busyReads (s : State) (fr : FreeStream) : Keeps s { s with busyReads := fr } := ⟨rfl, fun h => { h with }⟩

theorem keeps_respond (s : State) (r : BusResponse) : Keeps s (s.respond r) := ⟨rfl, fun h => h.respond r⟩

theorem keeps_overrun (s : State) : Keeps s s.overrun := ⟨rfl, Inv.overrun⟩

theorem keeps_resetEntry (s : State) : Keeps s s.resetEntry := ⟨rfl, Inv.resetEntry⟩

theorem keeps_zeroiseAll (s : State) : Keeps s s.zeroiseAll := ⟨rfl, Inv.zeroiseAll⟩

theorem keeps_fault (s : State) (code : FaultCode) : Keeps s (s.recordFault code).finish := ⟨rfl, fun h => h.fault code⟩

/-- A guarded write is an overrun while busy, and the write itself while idle (R26). -/
theorem keeps_ite_overrun {s t : State} (h : Keeps s t) : Keeps s (if s.busy then s.overrun else t) := by
  split
  · exact keeps_overrun s
  · exact h

/-! ### The host's moves -/

/-- Replacing one word of a value of `W` bits gives a value of `W` bits (R63). -/
theorem replaceWord_lt {W x j v : Nat} (hW : W % 32 = 0) (hj : j < W / 32) (hx : x < 2 ^ W) (hv : v < 2 ^ 32) :
    replaceWord x j v < 2 ^ W := by
  have hsplit : 2 ^ W = 2 ^ (W - 32 * (j + 1)) * 2 ^ (32 * (j + 1)) := by
    rw [← Nat.pow_add]
    congr 1
    omega
  have hstep : 2 ^ (32 * (j + 1)) = 2 ^ 32 * 2 ^ (32 * j) := by
    rw [← Nat.pow_add]
    congr 1
    omega
  have hlow : x % 2 ^ (32 * j) + v * 2 ^ (32 * j) < 2 ^ (32 * (j + 1)) :=
    calc x % 2 ^ (32 * j) + v * 2 ^ (32 * j) < 2 ^ (32 * j) + v * 2 ^ (32 * j) :=
          Nat.add_lt_add_right (Nat.mod_lt _ (Nat.two_pow_pos _)) _
      _ = (v + 1) * 2 ^ (32 * j) := by ring
      _ ≤ 2 ^ 32 * 2 ^ (32 * j) := Nat.mul_le_mul_right _ (Nat.succ_le_of_lt hv)
      _ = 2 ^ (32 * (j + 1)) := hstep.symm
  have hhigh : x / 2 ^ (32 * (j + 1)) < 2 ^ (W - 32 * (j + 1)) :=
    Nat.div_lt_of_lt_mul (by rwa [Nat.mul_comm, ← hsplit])
  calc replaceWord x j v < 2 ^ (32 * (j + 1)) + x / 2 ^ (32 * (j + 1)) * 2 ^ (32 * (j + 1)) :=
        Nat.add_lt_add_right hlow _
    _ = (x / 2 ^ (32 * (j + 1)) + 1) * 2 ^ (32 * (j + 1)) := by ring
    _ ≤ 2 ^ (W - 32 * (j + 1)) * 2 ^ (32 * (j + 1)) := Nat.mul_le_mul_right _ (Nat.succ_le_of_lt hhigh)
    _ = 2 ^ W := hsplit.symm

theorem keeps_writeRegWord (s : State) (i : Reg) (j : Nat) (w : Word) : Keeps s (s.writeRegWord i j w) := by
  unfold State.writeRegWord
  split
  · next hj =>
    refine ⟨rfl, fun h => ?_⟩
    obtain ⟨⟨hmultiple, -⟩, -, -⟩ := h.legal
    exact h.setReg (replaceWord_lt hmultiple hj (h.regs i) w.isLt) i
  · exact Keeps.refl s

theorem keeps_ctrlWrite (s : State) (r : CtrlReg) (w : Word) : Keeps s (s.ctrlWrite r w) := by
  cases r with
  | id | errcode | param | errcmd => exact Keeps.refl s
  | ctrl =>
    change Keeps s (if w.getLsbD 1 then s.resetEntry else { s with ie := w.getLsbD 0 })
    split
    · exact keeps_resetEntry s
    · exact ⟨rfl, fun h => { h with }⟩
  | status => exact ⟨rfl, fun h => h.writeStatus w⟩
  | cmd => exact keeps_ite_overrun ⟨rfl, fun h => h.accept w⟩
  | flags => exact keeps_ite_overrun ⟨rfl, fun h => h.setFlags _⟩

theorem keeps_legalWrite (s : State) (width : Width) (offset : Nat) (lanes : Word) :
    Keeps s (s.legalWrite width offset lanes) := by
  unfold State.legalWrite
  split
  · exact keeps_ctrlWrite s _ lanes
  · exact Keeps.refl s
  · exact keeps_ite_overrun (keeps_writeRegWord s _ _ lanes)
  · exact keeps_ite_overrun ⟨rfl, fun h =>
      h.setBuf (writeBufBytes_wf _ _ _ _ _ h.bufCanonical) (writeBufBytes_below _ _ _ _ _ h.bufBelow)⟩

theorem keeps_legalRead (s : State) (offset : Nat) : Keeps s (s.legalRead offset).1 := by
  obtain h | h := legalRead_state s offset
  · rw [h]
    exact Keeps.refl s
  · rw [h]
    exact keeps_busyReads s _

theorem keeps_hostRead (s : State) (width : Width) (offset : Nat) : Keeps s (s.hostRead width offset) := by
  unfold State.hostRead
  split
  · exact (keeps_legalRead s offset).trans (keeps_respond _ _)
  · exact keeps_respond s _

theorem keeps_hostWrite (s : State) (width : Width) (offset : Nat) (lanes : Word) :
    Keeps s (s.hostWrite width offset lanes) := by
  unfold State.hostWrite
  split
  · exact (keeps_legalWrite s width offset lanes).trans (keeps_respond _ _)
  · exact keeps_respond s _

/-! ### The engine's moves -/

theorem keeps_exec {i : Instr} {s t : State} (h : exec i s = .next t) : Keeps s t := by
  obtain ⟨u, hu, rfl⟩ | ⟨code, -, rfl⟩ := exec_next_cases h
  · exact ⟨by rw [hu.frame]; rfl, fun hs => (hu.inv hs).finish⟩
  · exact keeps_fault s code

theorem keeps_completeLatched {s t : State} (h : completeLatched s = .next t) : Keeps s t := by
  unfold completeLatched at h
  split at h
  · exact keeps_exec h
  · exact raiseFault_next.mp h ▸ keeps_fault s _
  · exact raiseFault_next.mp h ▸ keeps_fault s _

theorem keeps_engineStep {s t : State} (h : engineStep s = .next t) : Keeps s t := by
  unfold engineStep at h
  split at h
  · exact Host.Outcome.next.inj h ▸ Keeps.refl s
  · exact keeps_completeLatched h
  · exact Host.Outcome.next.inj h ▸ keeps_zeroiseAll s

theorem exists_next_engineStep (s : State) : ∃ t, engineStep s = .next t := by
  unfold engineStep
  split
  · exact ⟨_, rfl⟩
  · unfold completeLatched
    split
    · exact (exec_ends _ s).exists_next
    · exact ⟨_, rfl⟩
    · exact ⟨_, rfl⟩
  · exact ⟨_, rfl⟩

/-! ### The step -/

theorem move_hardReset {s : State} {rest : List Move} (h : s.schedule = .hardReset :: rest) :
    move s = .next { s with schedule := rest }.resetEntry := by
  simp [move, h]

/-- Every step keeps the parameters and the invariant. The cases are the moves of R17. -/
theorem keeps_step {s t : State} (h : step s = .next t) : Keeps s t := by
  obtain ⟨-, h⟩ := step_next.mp h
  cases hs : s.schedule with
  | nil => exact keeps_engineStep (move_nil hs ▸ h)
  | cons m rest =>
    refine (keeps_schedule s rest).trans ?_
    cases m with
    | engine => exact keeps_engineStep (move_engine hs ▸ h)
    | read =>
      obtain ⟨-, rfl⟩ := busRead_next.mp (move_read hs ▸ h)
      exact keeps_hostRead _ _ _
    | write =>
      obtain ⟨-, rfl⟩ := busWrite_next.mp (move_write hs ▸ h)
      exact keeps_hostWrite _ _ _ _
    | hardReset => exact Host.Outcome.next.inj (move_hardReset hs ▸ h) ▸ keeps_resetEntry _

/-- Only an access outside the window has no next state (R60). -/
theorem exists_next_move {s : State} (h : NextAccessInWindow s) : ∃ t, move s = .next t := by
  unfold NextAccessInWindow at h
  cases hs : s.schedule with
  | nil => exact move_nil hs ▸ exists_next_engineStep s
  | cons m rest =>
    rw [hs] at h
    cases m with
    | engine => exact move_engine hs ▸ exists_next_engineStep _
    | read => exact ⟨_, (move_read hs).trans (busRead_next.mpr ⟨h, rfl⟩)⟩
    | write => exact ⟨_, (move_write hs).trans (busWrite_next.mpr ⟨h, rfl⟩)⟩
    | hardReset => exact ⟨_, move_hardReset hs⟩

/-- Settles O12: the invariant is one half of what every step keeps. -/
theorem everyStepKeepsTheInvariant : Obligations.EveryStepKeepsTheInvariant :=
  fun _ _ hs h => (keeps_step h).inv hs

/-- Settles O13: every move inside the window answers, and the parameters are the other half of what every step keeps. -/
theorem stepAnswersANextStateWithTheSameParameters : Obligations.StepAnswersANextStateWithTheSameParameters := by
  refine ⟨fun s hlegal hwindow => ?_, fun s t h => ?_⟩
  · rw [step_eq_move hlegal]
    exact exists_next_move hwindow
  · have hconfig := (keeps_step h).config
    exact ⟨hconfig, by rw [State.paramWord, hconfig, State.paramWord]⟩

end Sys2Proof.Machine
end

section
/-! SUPPORT. What a command reads: no flag (R34), and BUF in PACK and UNPACK alone (R36). -/

namespace Sys2Proof.Machine

/-! ### Two runs of one command -/

/-- `x` and `x'` are the ends of one command on `s` and on `s'` by the same branch: two completions of writes related by `R`, or the
same fault. -/
inductive EndAlike (R : State → State → Prop) (s s' : State) :
    Host.Outcome State Fault Refusal → Host.Outcome State Fault Refusal → Prop where
  | completes {u u' : State} (h : R u u') : EndAlike R s s' (complete u) (complete u')
  | faults (code : FaultCode) : EndAlike R s s' (raiseFault code s) (raiseFault code s')

theorem EndAlike.guard {R : State → State → Prop} {s s' : State} {p : Prop} [Decidable p] {code : FaultCode}
    {x x' : Host.Outcome State Fault Refusal} (hx : EndAlike R s s' x x') :
    EndAlike R s s' (if p then raiseFault code s else x) (if p then raiseFault code s' else x') := by
  split
  · exact .faults code
  · exact hx

/-- If the first run answers `t`, both ended by one branch. -/
theorem EndAlike.next {R : State → State → Prop} {s s' t : State} {x x' : Host.Outcome State Fault Refusal}
    (h : EndAlike R s s' x x') (hx : x = .next t) :
    (∃ u u', R u u' ∧ t = u.finish ∧ x' = .next u'.finish) ∨
    ∃ code, t = (s.recordFault code).finish ∧ x' = .next (s'.recordFault code).finish := by
  cases h with
  | completes hu => exact .inl ⟨_, _, hu, complete_next.mp hx, rfl⟩
  | faults code => exact .inr ⟨code, raiseFault_next.mp hx, rfl⟩

/-! ### BUF -/

/-- Every command but PACK and UNPACK: its branches and its results do not depend on BUF. -/
theorem exec_setBuf_alike {i : Instr} (hpack : i.opcode ≠ .pack) (hunpack : i.opcode ≠ .unpack) (s : State) (m : Memory) :
    EndAlike (fun u u' => u' = u.setBuf m) s (s.setBuf m) (exec i s) (exec i (s.setBuf m)) := by
  cases i with
  | pack => exact absurd rfl hpack
  | unpack => exact absurd rfl hunpack
  | mov | ldi | add | sub | mul | cmp | shl | shr | shlv | shrv | bitlen | gcd | xgcd | mrtest => exact .completes rfl
  | divmod | rand | bsize | marker | modmul | modexp => exact .guard (.completes rfl)
  | modinv => exact .guard (.guard (.completes rfl))
  | dlen => exact .guard (.guard (.guard (.guard (.completes rfl))))

/-- Whatever BUF holds, such a command ends in the same state but for BUF. -/
theorem exec_setBuf {i : Instr} (hpack : i.opcode ≠ .pack) (hunpack : i.opcode ≠ .unpack) {s t : State} (m : Memory)
    (h : exec i s = .next t) : exec i (s.setBuf m) = .next (t.setBuf m) := by
  obtain ⟨u, u', rfl, rfl, h'⟩ | ⟨code, rfl, h'⟩ := (exec_setBuf_alike hpack hunpack s m).next h
  · exact h'
  · exact h'

/-- Only UNPACK writes BUF. -/
theorem exec_buf {i : Instr} {s t : State} (hunpack : i.opcode ≠ .unpack) (h : exec i s = .next t) : t.buf = s.buf := by
  obtain ⟨u, hu, rfl⟩ | ⟨code, -, rfl⟩ := exec_next_cases h
  · exact hu.buf hunpack
  · rfl

/-- Settles O9. -/
theorem onlyPackAndUnpackReachTheBuffer : Obligations.OnlyPackAndUnpackReachTheBuffer :=
  fun _ _ _ h => ⟨fun hunpack o => by rw [exec_buf hunpack h], fun hpack hunpack m => exec_setBuf hpack hunpack m h⟩

/-! ### Flags -/

/-- As a function of the flags before it, `g` changes only the flags that R34 lists for row `o`, and gives those a value of its own. -/
structure WritesListed (o : Opcode) (g : Flags → Flags) : Prop where
  written : ∀ f, FlagsWrittenAsListed o f (g f)
  agree : ∀ f f', ListedFlagsAgree o (g f) (g f')

theorem flagsWrittenAsListed_refl (o : Opcode) (f : Flags) : FlagsWrittenAsListed o f f :=
  ⟨fun _ => rfl, fun _ => rfl, fun _ => rfl, fun _ => ⟨rfl, rfl, rfl⟩, fun _ => rfl, fun _ => rfl⟩

/-- The rows for which R34 lists Z and no other flag. -/
def writesZAlone (o : Opcode) : Bool :=
  writesZ o && decide (o ∉ [Opcode.add, .sub]) && decide (o ∉ [Opcode.mul, .shl, .shlv])

theorem ne_of_writesZ {o : Opcode} (hz : writesZ o = true) : o ≠ .cmp ∧ o ≠ .mrtest ∧ o ≠ .unpack := by
  refine ⟨?_, ?_, ?_⟩ <;> (rintro rfl; cases hz)

theorem writesListed_withZ {o : Opcode} (ho : writesZAlone o = true) (r : Nat) : WritesListed o (·.withZ r) := by
  simp only [writesZAlone, Bool.and_eq_true, decide_eq_true_eq] at ho
  obtain ⟨⟨hz, hcarry⟩, hloss⟩ := ho
  obtain ⟨hcompare, hp, ht⟩ := ne_of_writesZ hz
  exact ⟨fun f => { flagsWrittenAsListed_refl o f with z := fun h => absurd (hz.symm.trans h) nofun },
    fun f f' => ⟨fun _ => rfl, fun h => absurd h hcarry, fun h => absurd h hloss, fun h => absurd h hcompare,
      fun h => absurd h hp, fun h => absurd h ht⟩⟩

theorem writesListed_ofAdd (W sum : Nat) : WritesListed .add (·.ofAdd W sum) where
  written f := { flagsWrittenAsListed_refl .add f with z := nofun, c := fun h => absurd (.head _) h }
  agree f f' := ⟨fun _ => rfl, fun _ => rfl, fun h => absurd h (by decide), nofun, nofun, nofun⟩

theorem writesListed_ofSub (a b : Nat) : WritesListed .sub (·.ofSub a b) where
  written f := { flagsWrittenAsListed_refl .sub f with z := nofun, c := fun h => absurd (.tail _ (.head _)) h }
  agree f f' := ⟨fun _ => rfl, fun _ => rfl, fun h => absurd h (by decide), nofun, nofun, nofun⟩

/-- Z and V are the listed flags of MUL, SHL and SHLV. -/
theorem writesListed_ofLoss {o : Opcode} (ho : o ∈ [Opcode.mul, .shl, .shlv]) (W p : Nat) : WritesListed o (·.ofLoss W p) := by
  have hz : writesZ o = true := by revert o; decide
  have hcarry : o ∉ [Opcode.add, .sub] := by revert o; decide
  obtain ⟨hcompare, hp, ht⟩ := ne_of_writesZ hz
  exact ⟨fun f => { flagsWrittenAsListed_refl o f with z := fun h => absurd (hz.symm.trans h) nofun, v := fun h => absurd ho h },
    fun f f' => ⟨fun _ => rfl, fun h => absurd h hcarry, fun _ => rfl, fun h => absurd h hcompare,
      fun h => absurd h hp, fun h => absurd h ht⟩⟩

theorem writesListed_ofCompare (a b : Nat) : WritesListed .cmp (·.ofCompare a b) where
  written f := { flagsWrittenAsListed_refl .cmp f with compare := fun h => absurd rfl h }
  agree f f' := ⟨nofun, fun h => absurd h (by decide), fun h => absurd h (by decide), fun _ => ⟨rfl, rfl, rfl⟩, nofun, nofun⟩

theorem writesListed_withP (accepted : Bool) : WritesListed .mrtest (·.withP accepted) where
  written f := { flagsWrittenAsListed_refl .mrtest f with p := fun h => absurd rfl h }
  agree f f' := ⟨nofun, fun h => absurd h (by decide), fun h => absurd h (by decide), nofun, fun _ => rfl, nofun⟩

theorem writesListed_ofUnpack (v count : Nat) : WritesListed .unpack (·.ofUnpack v count) where
  written f := { flagsWrittenAsListed_refl .unpack f with t := fun h => absurd rfl h }
  agree f f' := ⟨nofun, fun h => absurd h (by decide), fun h => absurd h (by decide), nofun, nofun, fun _ => rfl⟩

/-- The writes of a command of row `o` from `s`, and those from `s` with flags `f`: the same but for the flags, which are one listed
function of the flags before. -/
def FlagsApart (o : Opcode) (s : State) (f : Flags) (u u' : State) : Prop :=
  u.err = s.err ∧ ∃ g, WritesListed o g ∧ u.flags = g s.flags ∧ u' = u.setFlags (g f)

/-- No command reads a flag: its branches and its results do not depend on FLAGS, and its flags are those that R34 lists. -/
theorem exec_setFlags_alike (i : Instr) (s : State) (f : Flags) :
    EndAlike (FlagsApart i.opcode s f) s (s.setFlags f) (exec i s) (exec i (s.setFlags f)) := by
  cases i with
  | mov | ldi | shr | shrv | bitlen | gcd | xgcd =>
    exact .completes ⟨rfl, _, writesListed_withZ rfl _, rfl, rfl⟩
  | add => exact .completes ⟨rfl, _, writesListed_ofAdd _ _, rfl, rfl⟩
  | sub => exact .completes ⟨rfl, _, writesListed_ofSub _ _, rfl, rfl⟩
  | mul => exact .completes ⟨rfl, _, writesListed_ofLoss (.head _) _ _, rfl, rfl⟩
  | shl => exact .completes ⟨rfl, _, writesListed_ofLoss (.tail _ (.head _)) _ _, rfl, rfl⟩
  | shlv => exact .completes ⟨rfl, _, writesListed_ofLoss (.tail _ (.tail _ (.head _))) _ _, rfl, rfl⟩
  | cmp => exact .completes ⟨rfl, _, writesListed_ofCompare _ _, rfl, rfl⟩
  | mrtest => exact .completes ⟨rfl, _, writesListed_withP _, rfl, rfl⟩
  | unpack => exact .guard (.completes ⟨rfl, _, writesListed_ofUnpack _ _, rfl, rfl⟩)
  | divmod | rand | bsize | marker | modmul | modexp =>
    exact .guard (.completes ⟨rfl, _, writesListed_withZ rfl _, rfl, rfl⟩)
  | modinv | pack => exact .guard (.guard (.completes ⟨rfl, _, writesListed_withZ rfl _, rfl, rfl⟩))
  | dlen =>
    exact .guard (.guard (.guard (.guard (.completes ⟨rfl, _, writesListed_withZ rfl _, rfl, rfl⟩))))

/-- Settles O8: the completion applies one listed function of the flags in both runs, and a fault is the same fault in both. -/
theorem commandsWriteOnlyTheirListedFlagsAndReadNone : Obligations.CommandsWriteOnlyTheirListedFlagsAndReadNone := by
  intro i s t h
  have ends f := (exec_setFlags_alike i s f).next h
  refine ⟨?written, ?faultKeeps, fun f => ?otherFlags⟩
  case written =>
    obtain ⟨u, -, ⟨-, g, hg, hflags, -⟩, rfl, -⟩ | ⟨code, rfl, -⟩ := ends s.flags
    · rw [State.finish_flags, hflags]
      exact hg.written s.flags
    · exact flagsWrittenAsListed_refl _ _
  case faultKeeps =>
    intro hbefore hafter
    obtain ⟨u, -, ⟨herr, -⟩, rfl, -⟩ | ⟨code, rfl, -⟩ := ends s.flags
    · exact absurd ((herr.trans hbefore).symm.trans hafter) nofun
    · rfl
  case otherFlags =>
    obtain ⟨u, u', ⟨herr, g, hg, hflags, rfl⟩, rfl, h'⟩ | ⟨code, rfl, h'⟩ := ends f
    · refine ⟨_, h', rfl, fun hbefore hafter => absurd ((herr.trans hbefore).symm.trans hafter) nofun, fun _ _ => ?_⟩
      rw [State.finish_flags, hflags]
      exact hg.agree s.flags f
    · exact ⟨_, h', rfl, fun _ _ => rfl, fun _ => nofun⟩

end Sys2Proof.Machine
end

section
/-! SUPPORT. The control registers through the window (R24, R61), and the zeroisation that ends a reset (R312). -/

namespace Sys2Proof.Machine

/-! ### Accesses of the control registers -/

/-- A legal read answers the data bus of the read. -/
theorem hostRead_response {s : State} {width : Width} {offset : Nat} (h : accessLegal width offset = true) :
    (s.hostRead width offset).response = some (.data (s.legalRead offset).2) := by
  simp [State.hostRead, h]

/-- Every control register but FLAGS reads in every phase, and FLAGS while idle (R33, R320). -/
theorem hostRead_control {s : State} {offset : Nat} {r : CtrlReg} (hlegal : accessLegal .word offset = true)
    (hregion : regionOf offset = .control r) (hdefined : r = .flags → s.phase = .idle) :
    (s.hostRead .word offset).response = some (.data (s.ctrlRead r)) := by
  rw [hostRead_response hlegal, State.legalRead, hregion]
  cases r with
  | flags => simp [s.idle_iff.mpr (hdefined rfl)]
  | id | ctrl | status | cmd | errcode | param | errcmd => rfl

/-- A write of a control register is answered in every phase. -/
theorem hostWrite_control (s : State) {offset : Nat} {r : CtrlReg} (w : Word) (hlegal : accessLegal .word offset = true)
    (hregion : regionOf offset = .control r) : s.hostWrite .word offset w = (s.ctrlWrite r w).respond .written := by
  simp [State.hostWrite, hlegal, State.legalWrite, hregion]

theorem regionOf_unmapped {offset : Nat} (hlo : 0x20 ≤ offset) (hhi : offset < 0x4000) : regionOf offset = .unmapped := by
  have hslot : CtrlReg.ofSlot (offset / 4) = none := List.getElem?_eq_none (by simp only [List.length]; omega)
  rw [regionOf, if_pos hhi, hslot]

/-! ### The words they read as -/

theorem ctrlWord_eq (s : State) : s.ctrlWord = if s.ie then 1 else 0 := by
  rw [State.ctrlWord]
  cases s.ie <;> rfl

/-- STATUS as a sum of its four bits (R29). -/
theorem statusWord_eq (s : State) :
    s.statusWord = (if s.phase = .idle then 0 else 1) + (if s.done then 2 else 0) + (if s.err then 4 else 0) +
      (if s.ovr then 8 else 0) := by
  have bit (b : Bool) (k : Nat) : BitVec.ofNat 32 (k * b.toNat) = if b then BitVec.ofNat 32 k else 0 := by
    cases b <;> simp
  have hbusy : BitVec.ofNat 32 s.busy.toNat = if s.phase = .idle then 0 else 1 := by
    by_cases h : s.phase = .idle <;> simp [State.busy, h]
  simp only [State.statusWord, BitVec.ofNat_add, bit, hbusy]
  rfl

theorem errcodeWord_eq (s : State) : s.errcodeWord = s.errcode.setWidth 32 :=
  BitVec.ofNat_toNat 32 s.errcode

/-- PARAM: BUFSZ above W, each in 16 bits (R32). -/
theorem paramWord_eq (s : State) :
    s.paramWord = BitVec.ofNat 16 s.config.bufSize ++ BitVec.ofNat 16 s.config.width := by
  apply BitVec.eq_of_toNat_eq
  rw [State.paramWord, BitVec.toNat_append, BitVec.toNat_ofNat, BitVec.toNat_ofNat, BitVec.toNat_ofNat,
    ← Nat.shiftLeft_add_eq_or_of_lt (Nat.mod_lt _ (Nat.two_pow_pos 16)), Nat.shiftLeft_eq]
  omega

/-- The sum of eight weighted flags is below 2^8, and its bits are the flags (R33). -/
theorem flags_toWord (f : Flags) : f.toWord.toNat < 2 ^ 8 ∧ Flags.ofWord f.toWord = f := by
  have := f.z.toNat_le; have := f.c.toNat_le; have := f.v.toNat_le; have := f.lt.toNat_le
  have := f.eq.toNat_le; have := f.gt.toNat_le; have := f.p.toNat_le; have := f.t.toNat_le
  have hsum : f.toWord.toNat = f.z.toNat + 2 * f.c.toNat + 4 * f.v.toNat + 8 * f.lt.toNat + 16 * f.eq.toNat +
      32 * f.gt.toNat + 64 * f.p.toNat + 128 * f.t.toNat := Nat.mod_eq_of_lt (by omega)
  have bit {b : Bool} {k : Nat} (h : f.toWord.toNat / 2 ^ k % 2 = b.toNat) : f.toWord.getLsbD k = b := by
    rw [BitVec.getLsbD, Nat.testBit_eq_decide_div_mod_eq, h]
    cases b <;> rfl
  refine ⟨by omega, ?_⟩
  rw [Flags.ofWord, bit (k := 0) (b := f.z) (by omega), bit (k := 1) (b := f.c) (by omega),
    bit (k := 2) (b := f.v) (by omega), bit (k := 3) (b := f.lt) (by omega), bit (k := 4) (b := f.eq) (by omega),
    bit (k := 5) (b := f.gt) (by omega), bit (k := 6) (b := f.p) (by omega), bit (k := 7) (b := f.t) (by omega)]

/-- Settles O21, register by register. -/
theorem controlRegistersReadAsTheMapSays : Obligations.ControlRegistersReadAsTheMapSays := by
  intro s
  refine ⟨?id, ?ctrl, ?status, ?cmd, ?errcode, ?param, fun hidle => ?flags, ?errcmd, fun offset hlo hhi haligned => ?unmapped⟩
  case id => exact hostRead_control (r := .id) (by decide) (by decide) nofun
  case ctrl => rw [← ctrlWord_eq]; exact hostRead_control (r := .ctrl) (by decide) (by decide) nofun
  case status => rw [← statusWord_eq]; exact hostRead_control (r := .status) (by decide) (by decide) nofun
  case cmd => exact hostRead_control (r := .cmd) (by decide) (by decide) nofun
  case errcode => rw [← errcodeWord_eq]; exact hostRead_control (r := .errcode) (by decide) (by decide) nofun
  case param => rw [← paramWord_eq]; exact hostRead_control (r := .param) (by decide) (by decide) nofun
  case errcmd => exact hostRead_control (r := .errcmd) (by decide) (by decide) nofun
  case flags =>
    exact ⟨_, hostRead_control (r := .flags) (by decide) (by decide) fun _ => hidle, flags_toWord s.flags⟩
  case unmapped =>
    change (s.hostRead .word offset).response = _
    have hlegal : accessLegal .word offset = true := by simp [accessLegal, Width.bytes, haligned]
    rw [hostRead_response hlegal, State.legalRead, regionOf_unmapped hlo hhi]

/-- Settles O22, by the register written. -/
theorem controlWritesChangeTheirFields : Obligations.ControlWritesChangeTheirFields := by
  have clears (b bit : Bool) : (b && !bit) = if bit then false else b := by cases bit <;> simp
  refine fun s w => ⟨fun hsrst => ?ctrl, ?status, fun hidle => ?flags⟩
  case ctrl =>
    rw [hostWrite_control s w (r := .ctrl) (by decide) (by decide), State.ctrlWrite, State.writeCtrl, hsrst]
    rfl
  case status =>
    rw [hostWrite_control s w (r := .status) (by decide) (by decide), State.ctrlWrite, State.writeStatus, clears, clears, clears]
    rfl
  case flags =>
    rw [hostWrite_control s w (r := .flags) (by decide) (by decide), State.ctrlWrite, State.writeFlags, s.idle_iff.mpr hidle]
    rfl

/-! ### Zeroisation -/

/-- In phase ZEROISE the engine's move is the zeroisation, scheduled or as the move when none is left (R312). -/
theorem step_zeroise {s : State} {rest : List Move} (hlegal : s.config.Legal) (hphase : s.phase = .zeroise)
    (h : (s.schedule = [] ∧ rest = []) ∨ s.schedule = .engine :: rest) :
    step s = .next { s with schedule := rest }.zeroiseAll := by
  rw [step_eq_move hlegal]
  obtain ⟨hnil, rfl⟩ | hengine := h
  · have hs : { s with schedule := [] } = s := by rw [← hnil]
    rw [move_nil hnil, hs, engineStep, hphase]
  · rw [move_engine hengine, engineStep, hphase]

/-- Settles O26: both clauses are the zeroisation, the first one of the state a reset leaves. -/
theorem resetThenZeroisationGivesTheResetState : Obligations.ResetThenZeroisationGivesTheResetState := by
  refine ⟨fun s rest hlegal hschedule => ?reset, fun s rest hlegal hphase hschedule => ?zeroise⟩
  case reset =>
    have hreset : step s = .next { s with schedule := .engine :: rest }.resetEntry := by
      rw [step_eq_move hlegal, move_hardReset hschedule]
    exact ⟨_, _, hreset, rfl, step_zeroise hlegal rfl (.inr rfl), State.reg_zeroiseAll _, fun _ => rfl, rfl, rfl, rfl, rfl,
      rfl, rfl, rfl, rfl, rfl⟩
  case zeroise =>
    exact ⟨_, step_zeroise hlegal hphase hschedule, State.reg_zeroiseAll _, fun _ => rfl, rfl, rfl, rfl, rfl, rfl⟩

end Sys2Proof.Machine
end

section
/-! SUPPORT. The register window and the buffer window (R61 to R74): which accesses are legal, what each window answers while idle, and
what a write can do while busy. -/

namespace Sys2Proof.Machine

/-! ### Legality -/

/-- The table of R66. -/
theorem accessLegal_iff (width : Width) (offset : Nat) :
    accessLegal width offset = true ↔
      (offset < 0x8000 ∧ width = .word ∧ offset % 4 = 0) ∨ (0x8000 ≤ offset ∧ offset % width.bytes = 0) := by
  simp only [accessLegal, Bool.and_eq_true, Bool.or_eq_true, decide_eq_true_eq]
  cases width <;> simp only [Width.bytes, reduceCtorEq, false_or, false_and, and_false, true_or, true_and, and_true] <;> omega

/-- A legal access lies within one aligned word of the window (R66, R70). -/
theorem lanes_of_accessLegal {width : Width} {offset : Nat} (h : accessLegal width offset = true) :
    offset % 4 + width.bytes ≤ 4 := by
  rw [accessLegal, Bool.and_eq_true, decide_eq_true_eq] at h
  have haligned := h.1
  cases width <;> simp only [Width.bytes] at haligned ⊢ <;> omega

/-- Settles O17: the table of R66, and the answer to an access outside it. -/
theorem illegalAccessesAreRefused : Obligations.IllegalAccessesAreRefused := fun _ width offset _ _ =>
  ⟨accessLegal_iff width offset, fun h => ⟨hostRead_illegal h, hostWrite_illegal h⟩⟩

/-! ### The map of the two windows -/

theorem regionOf_register (i : Reg) {j : Nat} (hj : j < 256) :
    regionOf (0x4000 + 0x400 * i.val + 4 * j) = .register i j := by
  have hi := i.isLt
  have hslot : Fin.ofNat 16 ((0x4000 + 0x400 * i.val + 4 * j - 0x4000) / 0x400) = i := by
    ext
    rw [Fin.val_ofNat]
    omega
  rw [regionOf, if_neg (by omega), if_pos (by omega), hslot]
  congr 1
  omega

theorem regionOf_buffer (o : Nat) : regionOf (0x8000 + o) = .buffer o := by
  rw [regionOf, if_neg (by omega), if_neg (by omega), Nat.add_sub_cancel_left]

theorem accessLegal_register (i : Reg) {j : Nat} (hj : j < 256) :
    accessLegal .word (0x4000 + 0x400 * i.val + 4 * j) = true := by
  have hi := i.isLt
  exact (accessLegal_iff _ _).mpr (.inl ⟨by omega, rfl, by omega⟩)

/-! ### Accesses of the two windows while idle -/

theorem hostRead_register {s : State} (hidle : s.phase = .idle) (i : Reg) {j : Nat} (hj : j < 256) :
    (s.hostRead .word (0x4000 + 0x400 * i.val + 4 * j)).response = some (.data (s.readRegWord i j)) := by
  simp [hostRead_response (accessLegal_register i hj), State.legalRead, regionOf_register i hj, s.idle_iff.mpr hidle]

theorem hostWrite_register {s : State} (hidle : s.phase = .idle) (i : Reg) {j : Nat} (hj : j < 256) (w : Word) :
    s.hostWrite .word (0x4000 + 0x400 * i.val + 4 * j) w = (s.writeRegWord i j w).respond .written := by
  simp [State.hostWrite, accessLegal_register i hj, State.legalWrite, regionOf_register i hj, s.idle_iff.mpr hidle]

theorem hostRead_buffer {s : State} (hidle : s.phase = .idle) {width : Width} {o : Nat}
    (h : accessLegal width (0x8000 + o) = true) :
    (s.hostRead width (0x8000 + o)).response = some (.data (BitVec.ofNat 32 (s.readBuf (4 * (o / 4)) 4))) := by
  simp [hostRead_response h, State.legalRead, regionOf_buffer, s.idle_iff.mpr hidle]

theorem hostWrite_buffer {s : State} (hidle : s.phase = .idle) {width : Width} {o : Nat}
    (h : accessLegal width (0x8000 + o) = true) (lanes : Word) :
    s.hostWrite width (0x8000 + o) lanes =
      (s.setBuf (writeBufBytes s.config.bufSize s.buf o (laneValue width (0x8000 + o) lanes).toNat width.bytes)).respond
        .written := by
  simp [State.hostWrite, h, State.legalWrite, regionOf_buffer, s.idle_iff.mpr hidle]

/-! ### The words of a register -/

/-- A replaced word as the digits of the new value: the bits below it, the word itself, and the bits above it. -/
theorem replaceWord_eq (x j v : Nat) :
    replaceWord x j v = 2 ^ (32 * j) * (2 ^ 32 * (x / 2 ^ (32 * (j + 1))) + v) + x % 2 ^ (32 * j) := by
  rw [replaceWord, Nat.mul_add 32 j 1, Nat.pow_add]
  ring

/-- A replaced word has the bits of the new word, and every other bit is as before (R63). -/
theorem testBit_replaceWord (x j n : Nat) (w : Word) :
    (replaceWord x j w.toNat).testBit n =
      if 32 * j ≤ n ∧ n < 32 * j + 32 then w.getLsbD (n - 32 * j) else x.testBit n := by
  rw [replaceWord_eq, Nat.testBit_two_pow_mul_add _ (Nat.mod_lt _ (Nat.two_pow_pos _)),
    Nat.testBit_two_pow_mul_add _ w.isLt, Nat.testBit_mod_two_pow, Nat.testBit_div_two_pow]
  by_cases hlow : n < 32 * j
  · simp [hlow, show ¬ 32 * j ≤ n by omega]
  · by_cases hword : n < 32 * j + 32
    · simp [hlow, hword, show 32 * j ≤ n by omega, show n - 32 * j < 32 by omega, BitVec.getLsbD]
    · have habove : n - 32 * j - 32 + 32 * (j + 1) = n := by omega
      simp [hlow, hword, show ¬ n - 32 * j < 32 by omega, habove]

/-- Settles O18, on the two sides of W/32. -/
theorem registerWindowReadsAndWritesWords : Obligations.RegisterWindowReadsAndWritesWords := by
  intro s i j data hidle hj offset t
  have hwrite : t = (s.writeRegWord i j data).respond .written := hostWrite_register hidle i hj data
  rw [hostRead_register hidle i hj, hwrite]
  refine ⟨fun hword => ?word, fun habove => ?above⟩
  case word =>
    have hread : s.readRegWord i j = BitVec.ofNat 32 (s.reg i / 2 ^ (32 * j)) := by
      rw [State.readRegWord, State.width, if_pos hword, wordOf]
      exact BitVec.eq_of_toNat_eq (by simp)
    have hset : s.writeRegWord i j data = s.setReg i (replaceWord (s.reg i) j data.toNat) := if_pos hword
    rw [hread, hset]
    refine ⟨rfl, regsKept_setReg s i _, rfl, fun n => ?_⟩
    rw [State.reg_respond, State.reg_setReg, if_pos rfl, testBit_replaceWord]
  case above =>
    have hnot : ¬ j < s.width / 32 := Nat.not_lt.mpr habove
    rw [State.readRegWord, if_neg hnot, State.writeRegWord, if_neg hnot]
    exact ⟨rfl, rfl⟩

/-! ### The bytes of the buffer window -/

/-- Truncating to `n` bytes keeps each byte below the `n`-th. -/
theorem mod_pow_byte (v : Nat) {k n : Nat} (h : k < n) : v % 256 ^ n / 256 ^ k % 256 = v / 256 ^ k % 256 := by
  obtain ⟨m, rfl⟩ : ∃ m, n = k + (m + 1) := ⟨n - k - 1, by omega⟩
  rw [Nat.pow_add, Nat.mod_mul_right_div_self, Nat.pow_succ, Nat.mod_mul_left_mod]

/-- Bytes at BUFSZ and above read 0 (R64). -/
theorem bufByte_toNat (s : State) (o : Nat) :
    (s.bufByte o).toNat = if o < s.config.bufSize then (s.buf.read o).toNat else 0 := by
  rw [State.bufByte]
  split <;> rfl

/-- A buffer read is the little-endian sum of its bytes (R72). -/
theorem readBuf_eq_sum (s : State) (o n : Nat) :
    s.readBuf o n = ∑ b ∈ Finset.range n, (s.bufByte (o + b)).toNat * 256 ^ b := by
  induction n with
  | zero => rfl
  | succ n ih => rw [State.readBuf, Finset.sum_range_succ, ih]

theorem readBuf_lt (s : State) (o n : Nat) : s.readBuf o n < 256 ^ n := by
  induction n with
  | zero => simp [State.readBuf]
  | succ n ih =>
    have hbyte : (s.bufByte (o + n)).toNat * 256 ^ n ≤ 255 * 256 ^ n :=
      Nat.mul_le_mul_right _ (Nat.le_of_lt_succ (s.bufByte (o + n)).isLt)
    rw [State.readBuf, Nat.pow_succ]
    omega

/-- A read of `k + n` bytes is the read of the first `k`, and that of the last `n` above it. -/
theorem readBuf_add (s : State) (o k n : Nat) :
    s.readBuf o (k + n) = s.readBuf o k + 256 ^ k * s.readBuf (o + k) n := by
  induction n with
  | zero => simp [State.readBuf]
  | succ n ih =>
    rw [← Nat.add_assoc, State.readBuf, ih, State.readBuf, Nat.pow_add, Nat.add_assoc o k n]
    ring

/-- The byte lanes `k` to `k + n - 1` of a read are the read of the `n` bytes at their offsets (R70). -/
theorem readBuf_lanes (s : State) (o : Nat) {k n m : Nat} (h : k + n ≤ m) :
    s.readBuf o m / 256 ^ k % 256 ^ n = s.readBuf (o + k) n := by
  obtain ⟨l, rfl⟩ := Nat.exists_eq_add_of_le h
  rw [Nat.add_assoc, readBuf_add, Nat.add_mul_div_left _ _ (Nat.pow_pos (by decide)),
    Nat.div_eq_of_lt (readBuf_lt s o k), Nat.zero_add, readBuf_add, Nat.add_mul_mod_self_left,
    Nat.mod_eq_of_lt (readBuf_lt s (o + k) n)]

/-- What every offset reads after a buffer write (R64). -/
theorem writeBufBytes_read (size : Nat) (m : Memory) (o v n a : Nat) (hm : m.wf = true) :
    (writeBufBytes size m o v n).read a =
      if o ≤ a ∧ a < o + n ∧ a < size then BitVec.ofNat 8 (v / 256 ^ (a - o) % 256) else m.read a := by
  induction n with
  | zero => rw [writeBufBytes, if_neg (by omega)]
  | succ n ih =>
    rw [writeBufBytes]
    by_cases ha : a = o + n
    · subst ha
      split
      · next hsize =>
        rw [Memory.read_write_self _ _ 0 _ (writeBufBytes_wf size m o v n hm), if_pos (by omega), Nat.add_sub_cancel_left]
      · next hsize => rw [ih, if_neg (by omega), if_neg (by omega)]
    · have hrange : (o ≤ a ∧ a < o + (n + 1) ∧ a < size) ↔ (o ≤ a ∧ a < o + n ∧ a < size) := by omega
      simp only [hrange, ← ih]
      split
      · exact Memory.read_write_of_ne ha _ _
      · rfl

/-- The value of an access is the bytes of its lanes (R70, R72). -/
theorem laneValue_toNat (width : Width) (offset : Nat) (lanes : Word) :
    (laneValue width offset lanes).toNat = lanes.toNat / 256 ^ (offset % 4) % 256 ^ width.bytes :=
  Nat.mod_eq_of_lt (Nat.lt_of_le_of_lt (Nat.mod_le _ _) (Nat.lt_of_le_of_lt (Nat.div_le_self _ _) lanes.isLt))

/-- Byte `b` of the value of an access is on lane `offset mod 4 + b` (R70). -/
theorem laneValue_byte {width : Width} {b : Nat} (hb : b < width.bytes) (offset : Nat) (lanes : Word) :
    (laneValue width offset lanes).toNat / 256 ^ b % 256 = lanes.toNat / 256 ^ (offset % 4 + b) % 256 := by
  rw [laneValue_toNat, mod_pow_byte _ hb, Nat.div_div_eq_div_mul, ← Nat.pow_add]

/-- The data bus of a buffer read carries the whole aligned word (R70). -/
theorem readBuf_word_toNat (s : State) (o : Nat) : (BitVec.ofNat 32 (s.readBuf o 4)).toNat = s.readBuf o 4 := by
  rw [BitVec.toNat_ofNat, Nat.mod_eq_of_lt ((readBuf_lt s o 4).trans_eq (by norm_num))]

theorem windowOffset_mod_four (o : Nat) : (0x8000 + o) % 4 = o % 4 := by omega

/-- The value of a buffer read is that of the bytes at its own offset, wherever it lies in the aligned word (R72). -/
theorem laneValue_readBuf (s : State) {width : Width} {o : Nat} (h : accessLegal width (0x8000 + o) = true) :
    (laneValue width (0x8000 + o) (BitVec.ofNat 32 (s.readBuf (4 * (o / 4)) 4))).toNat = s.readBuf o width.bytes := by
  rw [laneValue_toNat, readBuf_word_toNat, readBuf_lanes s _ (lanes_of_accessLegal h), windowOffset_mod_four,
    Nat.div_add_mod]

/-- A legal buffer write stores byte `b` of its value at `o + b` (R64). -/
theorem hostWrite_buffer_read {s : State} (hwf : s.buf.wf = true) (hidle : s.phase = .idle) {width : Width} {o : Nat}
    (h : accessLegal width (0x8000 + o) = true) (lanes : Word) (a : Nat) :
    (s.hostWrite width (0x8000 + o) lanes).buf.read a =
      if o ≤ a ∧ a < o + width.bytes ∧ a < s.config.bufSize then
        BitVec.ofNat 8 ((laneValue width (0x8000 + o) lanes).toNat / 256 ^ (a - o) % 256)
      else s.buf.read a := by
  rw [hostWrite_buffer hidle h, State.respond_buf, State.setBuf_buf, writeBufBytes_read _ _ _ _ _ _ hwf]

theorem hostWrite_buffer_byte {s : State} (hwf : s.buf.wf = true) (hidle : s.phase = .idle) {width : Width} {o b : Nat}
    (h : accessLegal width (0x8000 + o) = true) (lanes : Word) (hb : b < width.bytes) (hsize : o + b < s.config.bufSize) :
    ((s.hostWrite width (0x8000 + o) lanes).buf.read (o + b)).toNat =
      (laneValue width (0x8000 + o) lanes).toNat / 256 ^ b % 256 := by
  rw [hostWrite_buffer_read hwf hidle h, if_pos (by omega), Nat.add_sub_cancel_left]
  exact Nat.mod_mod _ _

/-- Settles O19: the value read is the sum of its bytes, and the write is known at every offset. -/
theorem bufferWindowReadsAndWritesBytes : Obligations.BufferWindowReadsAndWritesBytes := by
  intro s width o lanes hwf hidle ⟨_, hlegal⟩ t
  refine ⟨⟨_, hostRead_buffer hidle hlegal, ?read⟩, fun b hb hsize => hostWrite_buffer_byte hwf hidle hlegal lanes hb hsize,
    fun a ha => ?outside, ?frame⟩
  case read =>
    rw [laneValue_readBuf s hlegal, readBuf_eq_sum]
    simp only [bufByte_toNat]
  case outside => rw [hostWrite_buffer_read hwf hidle hlegal, if_neg (by omega)]
  case frame =>
    have hwrite : t = _ := hostWrite_buffer hidle hlegal lanes
    rw [hwrite]
    rfl

/-- Settles O20, by the access: a buffer read, a buffer write, and a register read. -/
theorem byteLanesCarryTheirOffsets : Obligations.ByteLanesCarryTheirOffsets := by
  intro s width b hidle hb
  refine ⟨fun o hlegal => ⟨_, hostRead_buffer hidle hlegal.2, ?bufferRead⟩,
    fun o lanes hwf hlegal hlow hhigh hsize => ?bufferWrite,
    fun i j hword hj => ⟨_, hostRead_register hidle i hj, ?registerRead⟩⟩
  case bufferRead =>
    have hlane := readBuf_lanes s (4 * (o / 4)) (k := b) (n := 1) (m := 4) (by omega)
    rw [readBuf_word_toNat]
    simpa only [pow_one, State.readBuf, Nat.pow_zero, Nat.mul_one, Nat.zero_add, Nat.add_zero] using hlane
  case bufferWrite =>
    have hoffset : 4 * (o / 4) + b = o + (b - o % 4) := by omega
    rw [hoffset] at hsize ⊢
    rw [hostWrite_buffer_byte hwf hidle hlegal.2 lanes (by omega) hsize, laneValue_byte (by omega), windowOffset_mod_four,
      Nat.add_sub_cancel' hlow]
  case registerRead =>
    have hslot : (s.readRegWord i j).toNat = s.reg i / 2 ^ (32 * j) % 256 ^ 4 := by
      rw [State.readRegWord, State.width, if_pos hword]
      exact Nat.mod_mod _ _
    have hbytes : 2 ^ (32 * j) * 256 ^ b = 2 ^ (8 * (4 * j + b)) := by
      rw [show (256 : Nat) = 2 ^ 8 from rfl, ← Nat.pow_mul, ← Nat.pow_add]
      congr 1
      omega
    rw [hslot, mod_pow_byte _ hb, Nat.div_div_eq_div_mul, hbytes]

/-! ### Accesses while busy -/

/-- CTRL is at one offset only (R24). -/
theorem offset_of_region_ctrl {width : Width} {offset : Nat} (hlegal : accessLegal width offset = true)
    (h : regionOf offset = .control .ctrl) : width = .word ∧ offset = 0x004 := by
  have hslots : ∀ n < 8, CtrlReg.ofSlot n = some .ctrl → n = 1 := by decide
  unfold regionOf at h
  split at h
  · next hlow =>
    split at h
    · next r hr =>
      cases h
      obtain ⟨hlt, -⟩ := List.getElem?_eq_some_iff.mp hr
      have hslot := hslots _ hlt hr
      obtain ⟨-, hwidth, haligned⟩ | ⟨hhigh, -⟩ := (accessLegal_iff width offset).mp hlegal
      · exact ⟨hwidth, by omega⟩
      · omega
    · cases h
  · split at h <;> cases h

/-- What a write can do while busy, a soft reset aside: it sets or clears bits of CTRL and STATUS (R26, R319). -/
theorem legalWrite_busy {s : State} (hbusy : s.busy = true) (width : Width) (offset : Nat) (lanes : Word)
    (hreset : regionOf offset = .control .ctrl → lanes.getLsbD 1 = false) :
    ∃ ie done err ovr, s.legalWrite width offset lanes = { s with ie := ie, done := done, err := err, ovr := ovr } := by
  unfold State.legalWrite
  split
  · next r hr =>
    cases r with
    | id | status | errcode | param | errcmd => exact ⟨_, _, _, _, rfl⟩
    | ctrl =>
      rw [State.ctrlWrite, State.writeCtrl, hreset hr]
      exact ⟨_, _, _, _, rfl⟩
    | cmd | flags => exact ⟨_, _, _, _, if_pos hbusy⟩
  · exact ⟨_, _, _, _, rfl⟩
  · exact ⟨_, _, _, _, if_pos hbusy⟩
  · exact ⟨_, _, _, _, if_pos hbusy⟩

/-- A host read changes nothing but the free values taken and the answer (R74). -/
theorem hostRead_frame (s : State) (width : Width) (offset : Nat) :
    ∃ fr resp, s.hostRead width offset = { s with busyReads := fr, response := resp } := by
  unfold State.hostRead
  split
  · obtain h | h := legalRead_state s offset
    · exact ⟨s.busyReads, _, by rw [h]; rfl⟩
    · exact ⟨_, _, by rw [h]; rfl⟩
  · exact ⟨_, _, rfl⟩

/-- Settles O23: a write while busy reaches only bits of CTRL and STATUS, and a refused one only the answer. -/
theorem hostAccessesKeepTheOperands : Obligations.HostAccessesKeepTheOperands := by
  refine fun s width offset data => ⟨hostRead_frame s width offset, fun hbusy hreset _ => ?_⟩
  unfold State.hostWrite
  split
  · next hlegal =>
    have hnotReset (h : regionOf offset = .control .ctrl) : data.getLsbD 1 = false := by
      obtain ⟨hwidth, hoffset⟩ := offset_of_region_ctrl hlegal h
      exact Bool.eq_false_of_not_eq_true fun hbit => hreset ⟨hwidth, hoffset, hbit⟩
    obtain ⟨ie, done, err, ovr, hwrite⟩ := legalWrite_busy hbusy width offset data hnotReset
    rw [hwrite]
    exact ⟨fun _ _ => rfl, fun _ => rfl, rfl, rfl, rfl⟩
  · exact ⟨fun _ _ => rfl, fun _ => rfl, rfl, rfl, rfl⟩

end Sys2Proof.Machine
end

section
/-! SUPPORT. The decoder and the encoder (R90 to R105): the fields of a word, the row its OP value names, and that the two functions
invert each other. -/

namespace Sys2Proof

/-! ### The fields of a word -/

/-- A field is 0 exactly when each of its bits is 0 (R10). -/
theorem bits_eq_zero_iff {v hi lo : Nat} : bits v hi lo = 0 ↔ ∀ k, lo ≤ k → k ≤ hi → v.testBit k = false := by
  have hbit (j : Nat) : (bits v hi lo).testBit j = (decide (j < hi + 1 - lo) && v.testBit (lo + j)) := by
    rw [bits, Nat.testBit_mod_two_pow, Nat.testBit_div_two_pow, Nat.add_comm j lo]
  constructor
  · intro h k hlo hhi
    have hk := hbit (k - lo)
    rwa [h, Nat.zero_testBit, Nat.add_sub_cancel' hlo, decide_eq_true (by omega), Bool.true_and, eq_comm] at hk
  · intro h
    refine Nat.eq_of_testBit_eq fun j => ?_
    rw [hbit, Nat.zero_testBit, Bool.and_eq_false_iff, decide_eq_false_iff_not]
    exact (em (j < hi + 1 - lo)).symm.imp id fun hj => h _ (by omega) (by omega)

/-- A field inside a field that is 0. -/
theorem bits_eq_zero_of_within {v hi lo hi' lo' : Nat} (h : bits v hi lo = 0) (hlo : lo ≤ lo') (hhi : hi' ≤ hi) :
    bits v hi' lo' = 0 :=
  bits_eq_zero_iff.mpr fun k hk hk' => bits_eq_zero_iff.mp h k (hlo.trans hk) (hk'.trans hhi)

theorem regField_val (w : Word) (lo : Nat) : (regField w lo).val = bits w.toNat (lo + 3) lo := by
  rw [regField, Fin.val_ofNat, bits, show lo + 3 + 1 - lo = 4 by omega]
  exact Nat.mod_mod _ _

theorem regField_eq {w : Word} {lo : Nat} {r : Reg} (h : bits w.toNat (lo + 3) lo = r.val) : regField w lo = r :=
  Fin.ext ((regField_val w lo).trans h)

theorem cmdOP_lt (w : Word) : cmdOP w < 256 := Nat.mod_lt _ (by decide)

theorem cmdIMM8_toNat (w : Word) : (cmdIMM8 w).toNat = bits w.toNat 31 24 := Nat.mod_mod _ _

theorem cmdIMM16_toNat (w : Word) : (cmdIMM16 w).toNat = bits w.toNat 31 16 := Nat.mod_mod _ _

/-- E is the whole byte of IMM8 where format X fixes the upper half of it at 0 (R91). -/
theorem cmdE_val_of_high_zero {w : Word} (h : bits w.toNat 31 28 = 0) : (cmdE w).val = bits w.toNat 31 24 := by
  rw [cmdE, regField_val]
  unfold bits at *
  omega

/-- A word in format R or X is the sum of its fields (R105). -/
theorem formatR_eq {w : Word} {op d a b c imm : Nat} (hop : op = cmdOP w) (hd : d = bits w.toNat 11 8)
    (ha : a = bits w.toNat 15 12) (hb : b = bits w.toNat 19 16) (hc : c = bits w.toNat 23 20)
    (himm : imm = bits w.toNat 31 24) : formatR op d a b c imm = w := by
  refine BitVec.eq_of_toNat_eq ?_
  rw [cmdOP] at hop
  unfold bits at *
  rw [formatR_toNat] <;> omega

/-- A word in format I is the sum of its fields, where the bits the format fixes are 0 (R105). -/
theorem formatI_eq {w : Word} {op d imm : Nat} (hop : op = cmdOP w) (hd : d = bits w.toNat 11 8)
    (hzero : bits w.toNat 15 12 = 0) (himm : imm = bits w.toNat 31 16) : formatI op d imm = w := by
  refine BitVec.eq_of_toNat_eq ?_
  rw [cmdOP] at hop
  unfold bits at *
  rw [formatI_toNat] <;> omega

/-! ### The fields of a sum

Each field reads back as it was put in, where the fields below it are in range: no carry reaches it. -/

section
variable {op d a b c imm : Nat}

theorem cmdD_formatR (ho : op < 256) (d : Reg) : cmdD (formatR op d.val a b c imm) = d := by
  refine regField_eq ?_
  rw [formatR, BitVec.toNat_ofNat, bits]
  omega

theorem cmdA_formatR (ho : op < 256) (hd : d < 16) (a : Reg) : cmdA (formatR op d a.val b c imm) = a := by
  refine regField_eq ?_
  rw [formatR, BitVec.toNat_ofNat, bits]
  omega

theorem cmdB_formatR (ho : op < 256) (hd : d < 16) (ha : a < 16) (b : Reg) : cmdB (formatR op d a b.val c imm) = b := by
  refine regField_eq ?_
  rw [formatR, BitVec.toNat_ofNat, bits]
  omega

theorem cmdC_formatR (ho : op < 256) (hd : d < 16) (ha : a < 16) (hb : b < 16) (c : Reg) :
    cmdC (formatR op d a b c.val imm) = c := by
  refine regField_eq ?_
  rw [formatR, BitVec.toNat_ofNat, bits]
  omega

theorem cmdE_formatR (ho : op < 256) (hd : d < 16) (ha : a < 16) (hb : b < 16) (hc : c < 16) (e : Reg) :
    cmdE (formatR op d a b c e.val) = e := by
  refine regField_eq ?_
  rw [formatR, BitVec.toNat_ofNat, bits]
  omega

theorem cmdIMM8_formatR (ho : op < 256) (hd : d < 16) (ha : a < 16) (hb : b < 16) (hc : c < 16) (imm : BitVec 8) :
    cmdIMM8 (formatR op d a b c imm.toNat) = imm := by
  refine BitVec.eq_of_toNat_eq ?_
  rw [cmdIMM8_toNat, formatR, BitVec.toNat_ofNat, bits]
  omega

theorem cmdD_formatI (ho : op < 256) (d : Reg) : cmdD (formatI op d.val imm) = d := by
  refine regField_eq ?_
  rw [formatI, BitVec.toNat_ofNat, bits]
  omega

theorem cmdIMM16_formatI (ho : op < 256) (hd : d < 16) (imm : BitVec 16) : cmdIMM16 (formatI op d imm.toNat) = imm := by
  refine BitVec.eq_of_toNat_eq ?_
  rw [cmdIMM16_toNat, formatI, BitVec.toNat_ofNat, bits]
  omega

end

/-! ### The row of a word -/

/-- The OP values of the rows are distinct (R97). -/
theorem Opcode.ofByte_eq_some_iff {op : Nat} {o : Opcode} : Opcode.ofByte op = some o ↔ o.byte = op := by
  constructor
  · intro h
    have hfound := List.find?_some h
    exact beq_iff_eq.mp hfound
  · rintro rfl
    cases o <;> rfl

/-- A row's reserved bits are 0 exactly when each of its ranges is. -/
theorem Opcode.reservedClear_iff {o : Opcode} {w : Word} :
    o.reservedClear w = true ↔ ∀ r ∈ o.zeroRanges, bits w.toNat r.1 r.2 = 0 := by
  simp [Opcode.reservedClear, List.all_eq_true]

/-- The answer of the decoder in a row (R95, R99). -/
theorem decode_of_byte {o : Opcode} {w : Word} (h : o.byte = cmdOP w) :
    decode w = if o.reservedClear w then .command (o.instr w) else .reservedField := by
  rw [decode, Opcode.ofByte_eq_some_iff.mpr h]

/-- A command comes from the row of its word, where every reserved bit is 0 (R101). -/
theorem decode_eq_command_iff {w : Word} {i : Instr} :
    decode w = .command i ↔ ∃ o : Opcode, o.byte = cmdOP w ∧ o.reservedClear w = true ∧ o.instr w = i := by
  constructor
  · intro h
    unfold decode at h
    split at h
    · cases h
    · next o ho =>
      split at h
      · next hclear => exact ⟨o, Opcode.ofByte_eq_some_iff.mp ho, hclear, Decoded.command.inj h⟩
      · cases h
  · rintro ⟨o, hbyte, hclear, rfl⟩
    rw [decode_of_byte hbyte, if_pos hclear]

theorem decode_eq_illegalOpcode_iff {w : Word} : decode w = .illegalOpcode ↔ Opcode.ofByte (cmdOP w) = none := by
  unfold decode
  split
  · next h => simp [h]
  · next h => split <;> simp [h]

/-! ### The two functions invert each other -/

/-- The word of a command is the sum of the fields it was decoded from: the fields that the row leaves out lie in its reserved
ranges. -/
theorem encode_instr {o : Opcode} {w : Word} (hop : o.byte = cmdOP w) (hclear : o.reservedClear w = true) :
    encode (o.instr w) = w := by
  have unused (hi lo : Nat) (h : ∃ r ∈ o.zeroRanges, r.2 ≤ lo ∧ hi ≤ r.1) : 0 = bits w.toNat hi lo := by
    obtain ⟨r, hr, hlo, hhi⟩ := h
    exact (bits_eq_zero_of_within (Opcode.reservedClear_iff.mp hclear r hr) hlo hhi).symm
  have hd := regField_val w 8
  have ha := regField_val w 12
  have hb := regField_val w 16
  have hc := regField_val w 20
  cases o with
  | mov | bitlen | rand | bsize =>
    exact formatR_eq hop hd ha (unused 19 16 (by decide)) (unused 23 20 (by decide)) (unused 31 24 (by decide))
  | ldi => exact formatI_eq hop hd (unused 15 12 (by decide)).symm (cmdIMM16_toNat w)
  | add | sub | mul | shlv | shrv | gcd | modinv | marker =>
    exact formatR_eq hop hd ha hb (unused 23 20 (by decide)) (unused 31 24 (by decide))
  | divmod | pack | dlen | modmul | modexp => exact formatR_eq hop hd ha hb hc (unused 31 24 (by decide))
  | cmp =>
    exact formatR_eq hop (unused 11 8 (by decide)) ha hb (unused 23 20 (by decide)) (unused 31 24 (by decide))
  | shl | shr =>
    exact formatR_eq hop hd ha (unused 19 16 (by decide)) (unused 23 20 (by decide)) (cmdIMM8_toNat w)
  | mrtest =>
    exact formatR_eq hop (unused 11 8 (by decide)) ha (unused 19 16 (by decide)) (unused 23 20 (by decide))
      (cmdIMM8_toNat w)
  | unpack => exact formatR_eq hop (unused 11 8 (by decide)) ha hb hc (unused 31 24 (by decide))
  | xgcd => exact formatR_eq hop hd ha hb hc (cmdE_val_of_high_zero (unused 31 28 (by decide)).symm)

/-- The operands of a command come back from its word. -/
theorem instr_encode (i : Instr) : i.opcode.instr (encode i) = i := by
  cases i <;>
    simp (disch := omega) only [encode, Instr.opcode, Opcode.instr, cmdD_formatR, cmdA_formatR, cmdB_formatR, cmdC_formatR,
      cmdE_formatR, cmdIMM8_formatR, cmdD_formatI, cmdIMM16_formatI]

/-- The word of a command is in the command's own row, with every reserved bit 0 (R95). -/
theorem encode_ownRow (i : Instr) : Laws.EncodesOwnRow.Statement i := by
  cases i with
  | mov => exact Laws.EncodesOwnRow.mov ..
  | ldi => exact Laws.EncodesOwnRow.ldi ..
  | add => exact Laws.EncodesOwnRow.add ..
  | sub => exact Laws.EncodesOwnRow.sub ..
  | mul => exact Laws.EncodesOwnRow.mul ..
  | divmod => exact Laws.EncodesOwnRow.divmod ..
  | cmp => exact Laws.EncodesOwnRow.cmp ..
  | shl => exact Laws.EncodesOwnRow.shl ..
  | shr => exact Laws.EncodesOwnRow.shr ..
  | shlv => exact Laws.EncodesOwnRow.shlv ..
  | shrv => exact Laws.EncodesOwnRow.shrv ..
  | bitlen => exact Laws.EncodesOwnRow.bitlen ..
  | gcd => exact Laws.EncodesOwnRow.gcd ..
  | xgcd => exact Laws.EncodesOwnRow.xgcd ..
  | modinv => exact Laws.EncodesOwnRow.modinv ..
  | mrtest => exact Laws.EncodesOwnRow.mrtest ..
  | rand => exact Laws.EncodesOwnRow.rand ..
  | bsize => exact Laws.EncodesOwnRow.bsize ..
  | pack => exact Laws.EncodesOwnRow.pack ..
  | unpack => exact Laws.EncodesOwnRow.unpack ..
  | marker => exact Laws.EncodesOwnRow.marker ..
  | dlen => exact Laws.EncodesOwnRow.dlen ..
  | modmul => exact Laws.EncodesOwnRow.modmul ..
  | modexp => exact Laws.EncodesOwnRow.modexp ..

@[simp] theorem decode_encode (i : Instr) : decode (encode i) = .command i := by
  obtain ⟨hbyte, hclear⟩ := encode_ownRow i
  exact decode_eq_command_iff.mpr ⟨i.opcode, hbyte.symm, hclear, instr_encode i⟩

/-- Settles O1: a decoded word is in a row with the unused fields 0, so its fields are all of it; and a command's word is in the
command's own row. -/
theorem decodingInvertsEncodingBothWays : Obligations.DecodingInvertsEncodingBothWays := by
  refine fun w i => ⟨fun h => ?_, fun h => h ▸ decode_encode i⟩
  obtain ⟨o, hbyte, hclear, rfl⟩ := decode_eq_command_iff.mp h
  exact encode_instr hbyte hclear

end Sys2Proof

namespace Sys2Proof.Machine

/-! ### The two decode faults -/

/-- The values of R98's list are the bytes that no row of R97 has. -/
theorem ofByte_eq_none_iff {op : Nat} (h : op < 256) : Opcode.ofByte op = none ↔ UnassignedOpcode op := by
  have hrows : Opcode.ofByte op = none ↔ ∀ o ∈ Opcode.all, o.byte ≠ op := by simp [Opcode.ofByte]
  rw [hrows]
  simp only [Opcode.all, List.cons_append, List.nil_append, List.forall_mem_cons, List.not_mem_nil, false_implies,
    implies_true, and_true, Opcode.byte, UnassignedOpcode]
  omega

theorem completeLatched_illegalOpcode {s : State} (h : decode s.latch = .illegalOpcode) :
    completeLatched s = raiseFault .illegalOpcode s := by
  simp [completeLatched, h]

theorem completeLatched_reservedField {s : State} (h : decode s.latch = .reservedField) :
    completeLatched s = raiseFault .reservedField s := by
  simp [completeLatched, h]

/-- Settles O2: R98's list is the bytes of no row, and the decoder answers those with the fault. -/
theorem unassignedOpcodesFault : Obligations.UnassignedOpcodesFault := by
  intro w
  have hillegal : decode w = .illegalOpcode ↔ UnassignedOpcode (cmdOP w) :=
    decode_eq_illegalOpcode_iff.trans (ofByte_eq_none_iff (cmdOP_lt w))
  refine ⟨hillegal, ?_⟩
  rintro s rfl h
  exact ⟨_, completeLatched_illegalOpcode (hillegal.mpr h), faulted_finish _ s⟩

/-- Settles O3: the range of the bit is not 0, so the row's reserved bits are not clear. -/
theorem nonzeroUnusedBitsFault : Obligations.NonzeroUnusedBitsFault := by
  rintro o w hi lo k hop hrange hlo hhi hbit s rfl
  have hnotClear : ¬ o.reservedClear s.latch = true := by
    intro hclear
    have hzero := bits_eq_zero_iff.mp (Opcode.reservedClear_iff.mp hclear _ hrange) k hlo hhi
    exact Bool.eq_false_iff.mp hzero hbit
  have hdecode : decode s.latch = .reservedField := by rw [decode_of_byte hop.symm, if_neg hnotClear]
  exact ⟨_, completeLatched_reservedField hdecode, faulted_finish _ s⟩

/-- Settles O4, by running the decoder on each word. -/
theorem exampleWordsDecodeAsTheSpecSays : Obligations.ExampleWordsDecodeAsTheSpecSays := by
  unfold Obligations.ExampleWordsDecodeAsTheSpecSays
  decide

end Sys2Proof.Machine
end

section
/-! SUPPORT. The row of a command as a decoding rule (R95, R99), what the completion of register writes leaves (R282), and with these the
commands of data movement and integer arithmetic (R121 to R126). -/

namespace Sys2Proof.Machine

/-! ### The row of a command -/

/-- The table of the model, row by row, in the terms of the statements (R97, R99). -/
theorem rowDecodes (o : Opcode) : RowDecodes o.byte o.zeroRanges o.instr := fun _ h =>
  (decode_of_byte h.symm).trans (if_congr Opcode.reservedClear_iff rfl rfl)

/-! ### The completion of register writes -/

theorem RegsKeptExcept.trans {ds es : List Reg} {s t u : State} (h : RegsKeptExcept ds s t) (h' : RegsKeptExcept es t u) :
    RegsKeptExcept (ds ++ es) s u := by
  intro r hr
  rw [List.mem_append, not_or] at hr
  obtain ⟨hds, hes⟩ := hr
  exact (h' r hes).trans (h r hds)

/-- A command that writes one register and the flags, and completes: the register, the frame, the flags, and the control state. -/
theorem complete_setReg {d : Reg} {v : Nat} {f : Flags} {s : State} {x : Host.Outcome State Fault Refusal}
    (h : x = complete ((s.setReg d v).setFlags f)) :
    ∃ t, x = .next t ∧ t.reg d = v ∧ RegsKeptExcept [d] s t ∧ BufKept s t ∧ t.flags = f ∧ t.draws = s.draws ∧
      Completed s t := by
  refine ⟨_, h, ?_, regsKept_setReg s d v, fun _ => rfl, rfl, rfl, completed_finish s _ _ _ _⟩
  rw [State.reg_finish, State.reg_setFlags, State.reg_setReg, if_pos rfl]

/-! ### Data movement -/

/-- Settles O27: the copied value is written, and Z is that of the value. -/
theorem movCopiesARegister : Obligations.MovCopiesARegister :=
  ⟨rowDecodes .mov, fun d a s => complete_setReg (rfl : exec (.mov d a) s = execMov d a s)⟩

/-- Z of LDI is that of the immediate itself (R94, R122). -/
theorem Flags.withZ_imm16Value (f : Flags) (imm : BitVec 16) : f.withZ (imm16Value imm) = { f with z := decide (imm = 0) } := by
  have hz : imm16Value imm = 0 ↔ imm = 0 := BitVec.toNat_inj (y := 0)
  rw [Flags.withZ, decide_eq_decide.mpr hz]

/-- Settles O28: the value is the zero-extended immediate, and it is 0 exactly when the immediate is. -/
theorem ldiLoadsAnImmediate : Obligations.LdiLoadsAnImmediate := by
  refine ⟨rowDecodes .ldi, fun d imm s => ?_⟩
  rw [← Flags.withZ_imm16Value]
  exact complete_setReg (rfl : exec (.ldi d imm) s = execLdi d imm s)

/-! ### Addition, subtraction and multiplication -/

/-- Settles O29: the truncated sum is written, with Z of it and C of the exact sum. -/
theorem addWrapsAndReportsCarry : Obligations.AddWrapsAndReportsCarry :=
  ⟨rowDecodes .add, fun d a b s => complete_setReg (rfl : exec (.add d a b) s = execAdd d a b s)⟩

/-- Where there is no borrow, `trunc_W` keeps the difference (R124). -/
theorem truncIntW_sub {W a b : Nat} (hle : b ≤ a) (ha : a < 2 ^ W) : truncIntW W ((a : Int) - (b : Int)) = a - b := by
  rw [← Nat.cast_sub hle, truncIntW, ← Int.natCast_mod, Int.toNat_natCast]
  exact Nat.mod_eq_of_lt (Nat.lt_of_le_of_lt (Nat.sub_le a b) ha)

/-- Z of SUB is the equality of the operands (R124). -/
theorem Flags.ofSub_eq (f : Flags) (a b : Nat) :
    f.ofSub a b = { f with z := decide (a = b), c := decide (a < b) } := by
  have hz : (a : Int) - (b : Int) = 0 ↔ a = b := by omega
  rw [Flags.ofSub, decide_eq_decide.mpr hz]

/-- Settles O30: the truncated difference is the residue modulo `2^W`, and the difference itself where there is no borrow. -/
theorem subWrapsAndReportsBorrow : Obligations.SubWrapsAndReportsBorrow := by
  refine ⟨rowDecodes .sub, fun d a b s => ?_⟩
  obtain ⟨t, ht, hd, hregs, hbuf, hflags, hdraws, hdone⟩ :=
    complete_setReg (rfl : exec (.sub d a b) s = execSub d a b s)
  refine ⟨t, ht, ?_, fun hle ha => ?_, hregs, hbuf, hflags.trans (Flags.ofSub_eq _ _ _), hdraws, hdone⟩
  · exact hd ▸ truncIntW_cast _ _
  · exact hd.trans (truncIntW_sub hle ha)

/-- Settles O31: the truncated product is written, with Z of it and V of the exact product. -/
theorem mulKeepsTheLowBits : Obligations.MulKeepsTheLowBits :=
  ⟨rowDecodes .mul, fun d a b s => complete_setReg (rfl : exec (.mul d a b) s = execMul d a b s)⟩

/-! ### Division -/

/-- DIVMOD by 0 is the fault DIV_ZERO (R126). -/
theorem exec_divmod_zero (d c a : Reg) {b : Reg} {s : State} (hb : s.reg b = 0) :
    exec (.divmod d c a b) s = .next (s.recordFault .divZero).finish := if_pos hb

/-- DIVMOD by any other divisor writes the quotient and then the remainder (R126). -/
theorem exec_divmod_of_ne_zero (d c a : Reg) {b : Reg} {s : State} (hb : s.reg b ≠ 0) :
    exec (.divmod d c a b) s =
      .next (((s.setReg d (s.reg a / s.reg b)).setReg c (s.reg a % s.reg b)).setFlags
        (s.flags.withZ (s.reg a % s.reg b))).finish := if_neg hb

/-- Settles O32, on the two branches of the divisor: the quotient in D is the older write, so C = D holds the remainder. -/
theorem divmodGivesQuotientAndRemainder : Obligations.DivmodGivesQuotientAndRemainder := by
  refine ⟨rowDecodes .divmod, fun d c a b s => ?_⟩
  by_cases hb : s.reg b = 0
  · exact ⟨_, exec_divmod_zero d c a hb, fun _ => faulted_finish .divZero s, fun hne => absurd hb hne⟩
  · refine ⟨_, exec_divmod_of_ne_zero d c a hb, fun h0 => absurd h0 hb, fun _ => ⟨s.reg a / s.reg b, s.reg a % s.reg b, ?_⟩⟩
    refine ⟨(Nat.div_add_mod' _ _).symm, Nat.mod_lt _ (Nat.pos_of_ne_zero hb), ?_, fun hdc => ?_,
      (regsKept_setReg s d _).trans (regsKept_setReg _ c _), fun _ => rfl, rfl, rfl, completed_finish s _ _ _ _⟩
    · rw [State.reg_finish, State.reg_setFlags, State.reg_setReg, if_pos rfl]
    · rw [State.reg_finish, State.reg_setFlags, State.reg_setReg, if_neg hdc, State.reg_setReg, if_pos rfl]

end Sys2Proof.Machine
end

section
/-! SUPPORT. The shifts of the model against the exact products and quotients of R142 to R145, for a count of any size, and with these the
comparators and shifters (R141 to R146). -/

namespace Sys2Proof.Machine

/-! ### Comparison -/

/-- Exactly one of LT, EQ and GT: the order of the natural numbers is total (R141). -/
theorem Flags.ofCompare_sum_eq_one (f : Flags) (a b : Nat) :
    (f.ofCompare a b).lt.toNat + (f.ofCompare a b).eq.toNat + (f.ofCompare a b).gt.toNat = 1 := by
  obtain h | h | h := Nat.lt_trichotomy a b
  · simp [Flags.ofCompare, h, h.ne, h.not_gt]
  · simp [Flags.ofCompare, h]
  · simp [Flags.ofCompare, h, h.ne', h.not_gt]

/-- Settles O33: only flags are written, and the three written are those of the unsigned order. -/
theorem cmpSetsOneOfThreeFlags : Obligations.CmpSetsOneOfThreeFlags :=
  ⟨rowDecodes .cmp, fun a b s => ⟨(s.setFlags (s.flags.ofCompare (s.reg a) (s.reg b))).finish, rfl, fun _ _ => rfl, fun _ => rfl, rfl,
    Flags.ofCompare_sum_eq_one _ _ _, rfl, completed_finish s _ _ _ _⟩⟩

/-! ### Left shifts -/

/-- From count W on, every bit leaves the result. -/
theorem mul_two_pow_mod_of_le {W k : Nat} (h : W ≤ k) (v : Nat) : v * 2 ^ k % 2 ^ W = 0 :=
  Nat.mod_eq_zero_of_dvd (Dvd.dvd.mul_left (Nat.pow_dvd_pow 2 h) v)

/-- From count W on, a bit is lost exactly when there is one. -/
theorem two_pow_le_mul_two_pow_iff {W k : Nat} (h : W ≤ k) (v : Nat) : 2 ^ W ≤ v * 2 ^ k ↔ v ≠ 0 := by
  constructor
  · rintro hle rfl
    rw [Nat.zero_mul] at hle
    exact absurd hle (Nat.two_pow_pos W).not_ge
  · intro hv
    calc 2 ^ W ≤ 2 ^ k := Nat.pow_le_pow_right (by decide) h
      _ ≤ v * 2 ^ k := Nat.le_mul_of_pos_left _ (Nat.pos_of_ne_zero hv)

/-- The model's stand-in for a count above W has the truncation of the exact product (R144, log entry 11). -/
theorem truncW_shiftLeftExact (W v k : Nat) : truncW W (shiftLeftExact W v k) = v * 2 ^ k % 2 ^ W := by
  unfold truncW shiftLeftExact
  split
  · rfl
  · next h => rw [mul_two_pow_mod_of_le le_rfl, mul_two_pow_mod_of_le (Nat.le_of_not_lt h)]

/-- The model's stand-in for a count above W has the loss of the exact product (R144, log entry 11). -/
theorem two_pow_le_shiftLeftExact_iff (W v k : Nat) : 2 ^ W ≤ shiftLeftExact W v k ↔ 2 ^ W ≤ v * 2 ^ k := by
  unfold shiftLeftExact
  split
  · rfl
  · next h => rw [two_pow_le_mul_two_pow_iff le_rfl, two_pow_le_mul_two_pow_iff (Nat.le_of_not_lt h)]

/-- Z and V of a left shift are those of the exact product (R142, R144). -/
theorem Flags.ofLoss_shiftLeftExact (f : Flags) (W v k : Nat) :
    f.ofLoss W (shiftLeftExact W v k) =
      { f with z := decide (v * 2 ^ k % 2 ^ W = 0), v := decide (2 ^ W ≤ v * 2 ^ k) } := by
  rw [Flags.ofLoss, truncW_shiftLeftExact, decide_eq_decide.mpr (two_pow_le_shiftLeftExact_iff W v k)]

/-- A left shift by any count: the truncated exact product, its Z and V, and the frame (R142, R144). -/
theorem shiftLeftBy_spec (d a : Reg) (count : Nat) (s : State) : ∃ t, shiftLeftBy d a count s = .next t ∧
    t.reg d = s.reg a * 2 ^ count % 2 ^ s.config.width ∧ RegsKeptExcept [d] s t ∧ BufKept s t ∧
    t.flags = { s.flags with
      z := decide (s.reg a * 2 ^ count % 2 ^ s.config.width = 0)
      v := decide (2 ^ s.config.width ≤ s.reg a * 2 ^ count) } ∧
    t.draws = s.draws ∧ Completed s t := by
  rw [← Flags.ofLoss_shiftLeftExact, ← truncW_shiftLeftExact]
  exact complete_setReg rfl

/-- Settles O34: SHL is the left shift by the unsigned value of IMM8. -/
theorem shlShiftsByTheImmediate : Obligations.ShlShiftsByTheImmediate :=
  ⟨rowDecodes .shl, fun d a imm s => shiftLeftBy_spec d a imm.toNat s⟩

/-- Settles O36: SHLV is the left shift by the whole register, and from W on the product is a multiple of `2^W`. -/
theorem shlvShiftsByAnyCount : Obligations.ShlvShiftsByAnyCount := by
  refine ⟨rowDecodes .shlv, fun d a b s => ?_⟩
  obtain ⟨t, ht, hd, hregs, hbuf, hflags, hdraws, hdone⟩ := shiftLeftBy_spec d a (s.reg b) s
  refine ⟨t, ht, hd, fun hge => ⟨hd.trans (mul_two_pow_mod_of_le hge _), ?_⟩, hregs, hbuf, hflags, hdraws, hdone⟩
  rw [hflags]
  exact decide_eq_decide.mpr (two_pow_le_mul_two_pow_iff hge _)

/-! ### Right shifts -/

/-- From count W on, nothing of a value in range is left. -/
theorem div_two_pow_of_le {W k v : Nat} (hv : v < 2 ^ W) (h : W ≤ k) : v / 2 ^ k = 0 :=
  Nat.div_eq_of_lt (hv.trans_le (Nat.pow_le_pow_right (by decide) h))

/-- The model's right shift of a value in range is the exact quotient, for every count (R145, log entry 11). -/
theorem shiftRight_eq_div {W v : Nat} (hv : v < 2 ^ W) (k : Nat) : shiftRight W v k = v / 2 ^ k := by
  unfold shiftRight
  split
  · rfl
  · next h => exact (div_two_pow_of_le hv (Nat.le_of_not_lt h)).symm

/-- A right shift of a register in range by any count: the exact quotient, 0 from W on, its Z, and the frame (R143, R145). -/
theorem shiftRightBy_spec (d : Reg) {a : Reg} (count : Nat) {s : State} (ha : s.reg a < 2 ^ s.config.width) :
    ∃ t, shiftRightBy d a count s = .next t ∧
      t.reg d = s.reg a / 2 ^ count ∧ (s.config.width ≤ count → t.reg d = 0) ∧ RegsKeptExcept [d] s t ∧ BufKept s t ∧
      t.flags = { s.flags with z := decide (s.reg a / 2 ^ count = 0) } ∧ t.draws = s.draws ∧ Completed s t := by
  have hwrites : shiftRightBy d a count s =
      complete ((s.setReg d (s.reg a / 2 ^ count)).setFlags (s.flags.withZ (s.reg a / 2 ^ count))) := by
    rw [← shiftRight_eq_div ha]
    rfl
  obtain ⟨t, ht, hd, hframe⟩ := complete_setReg hwrites
  exact ⟨t, ht, hd, fun hge => hd.trans (div_two_pow_of_le ha hge), hframe⟩

/-- Settles O35: SHR is the right shift by the unsigned value of IMM8. -/
theorem shrShiftsByTheImmediate : Obligations.ShrShiftsByTheImmediate :=
  ⟨rowDecodes .shr, fun d _ imm _ ha => shiftRightBy_spec d imm.toNat ha⟩

/-- Settles O37: SHRV is the right shift by the whole register. -/
theorem shrvShiftsByAnyCount : Obligations.ShrvShiftsByAnyCount :=
  ⟨rowDecodes .shrv, fun d _ b s ha => shiftRightBy_spec d (s.reg b) ha⟩

/-! ### Bit length -/

theorem bitlen_eq_zero_iff {v : Nat} : bitlen v = 0 ↔ v = 0 := by
  constructor
  · intro h
    by_contra hv
    obtain ⟨hpos, -, -⟩ := bitlen_bounds hv
    omega
  · exact fun hv => if_pos hv

/-- Settles O38: the value written meets the bounds of R11, and it is 0 exactly when the operand is. -/
theorem bitlenGivesTheBitLength : Obligations.BitlenGivesTheBitLength := by
  refine ⟨rowDecodes .bitlen, fun d a s => ?_⟩
  obtain ⟨t, ht, hd, hregs, hbuf, hflags, hdraws, hdone⟩ :=
    complete_setReg (rfl : exec (.bitlen d a) s = execBitlen d a s)
  refine ⟨t, ht, fun h0 => hd.trans (bitlen_eq_zero_iff.mpr h0), fun hne => ?_, hregs, hbuf, ?_, hdraws, hdone⟩
  · rw [hd]
    exact bitlen_bounds hne
  · rw [hflags, Flags.withZ, decide_eq_decide.mpr bitlen_eq_zero_iff]

end Sys2Proof.Machine
end

section
/-! SUPPORT. The two Euclidean loops of the model against the greatest common divisor and the loop of R162, the size of the coefficients
(R163), and with these the commands of the extended-GCD unit (R161 to R164). -/

namespace Sys2Proof.Machine

/-! ### The plain loop -/

/-- One turn of the Euclidean algorithm keeps the greatest common divisor (R161). -/
theorem gcd_turn (u v : Nat) : Nat.gcd v (u % v) = Nat.gcd u v := by
  rw [Nat.gcd_comm v, ← Nat.gcd_rec, Nat.gcd_comm]

/-- The second operand falls at each turn, so that much fuel brings it to 0 (log entry 11). -/
theorem mod_le_of_le_succ {fuel v : Nat} (u : Nat) (hv : v ≠ 0) (hfuel : v ≤ fuel + 1) : u % v ≤ fuel :=
  Nat.le_of_lt_succ ((Nat.mod_lt u (Nat.pos_of_ne_zero hv)).trans_le hfuel)

theorem euclidLoop_eq_gcd {fuel : Nat} (u : Nat) {v : Nat} (hfuel : v ≤ fuel) : euclidLoop fuel u v = Nat.gcd u v := by
  induction fuel generalizing u v with
  | zero => rw [Nat.le_zero.mp hfuel, euclidLoop, Nat.gcd_zero_right]
  | succ fuel ih =>
    rw [euclidLoop]
    split
    · next hv => rw [hv, Nat.gcd_zero_right]
    · next hv => rw [ih v (mod_le_of_le_succ u hv hfuel), gcd_turn]

/-- Settles O39: the loop gives `Nat.gcd`, and never leaves the range of its operands. -/
theorem gcdGivesTheGreatestCommonDivisor : Obligations.GcdGivesTheGreatestCommonDivisor := by
  refine ⟨rowDecodes .gcd, fun d a b s => ?_⟩
  obtain ⟨t, ht, hd, hregs, hbuf, hflags, hdraws, hdone⟩ :=
    complete_setReg (rfl : exec (.gcd d a b) s = execGcd d a b s)
  have hgcd := euclidLoop_eq_gcd (s.reg a) (le_refl (s.reg b))
  have hmax : t.reg d ≤ max (s.reg a) (s.reg b) := Nat.le_of_lt_succ <| hd ▸
    euclidLoop_lt _ (Nat.lt_succ_of_le (Nat.le_max_left _ _)) (Nat.lt_succ_of_le (Nat.le_max_right _ _))
  refine ⟨t, ht, hd.trans hgcd, hmax, hregs, hbuf, ?_, hdraws, hdone⟩
  rw [hflags, hgcd, Flags.withZ, decide_eq_decide.mpr Nat.gcd_eq_zero_iff]

/-! ### The extended loop -/

/-- `r0 - q*r1` is the remainder (R162). -/
theorem Bezout.turn_r1 (x : Bezout) : x.turn.r1 = x.r0 % x.r1 := Nat.mod_eq_sub_div_mul.symm

/-- With the fuel of its second operand the model's loop is a run of the loop of R162. -/
theorem euclidRun_bezoutLoop {fuel : Nat} {x : Bezout} (hfuel : x.r1 ≤ fuel) :
    EuclidRun x.r0 x.r1 x.s0 x.s1 x.t0 x.t1 (bezoutLoop fuel x).r0 (bezoutLoop fuel x).s0 (bezoutLoop fuel x).t0 := by
  induction fuel generalizing x with
  | zero =>
    rw [Nat.le_zero.mp hfuel]
    exact .stop ..
  | succ fuel ih =>
    rw [bezoutLoop]
    split
    · next h =>
      rw [h]
      exact .stop ..
    · next h =>
      refine .turn _ _ _ _ _ _ _ _ _ h ?_
      rw [← x.turn_r1]
      exact ih (x.turn_r1 ▸ mod_le_of_le_succ x.r0 h hfuel)

theorem euclidRun_extendedEuclid (a b : Nat) :
    EuclidRun a b 1 0 0 1 (extendedEuclid a b).r0 (extendedEuclid a b).s0 (extendedEuclid a b).t0 :=
  euclidRun_bezoutLoop (x := .start a b) le_rfl

/-! ### What a run of the loop of R162 gives -/

theorem EuclidRun.eq_gcd {r0 r1 g : Nat} {s0 s1 t0 t1 s t : Int} (h : EuclidRun r0 r1 s0 s1 t0 t1 g s t) :
    g = Nat.gcd r0 r1 := by
  induction h with
  | stop => rw [Nat.gcd_zero_right]
  | turn r0 r1 _ _ _ _ _ _ _ _ _ ih => rw [ih, gcd_turn]

theorem extendedEuclid_r0 (a b : Nat) : (extendedEuclid a b).r0 = Nat.gcd a b :=
  (euclidRun_extendedEuclid a b).eq_gcd

/-- Each turn keeps `a*s_i + b*t_i = r_i` for both rows, as it takes the same combination of the rows on each side (R162). -/
theorem EuclidRun.bezout {a b : Int} {r0 r1 g : Nat} {s0 s1 t0 t1 s t : Int} (h : EuclidRun r0 r1 s0 s1 t0 t1 g s t)
    (h0 : a * s0 + b * t0 = r0) (h1 : a * s1 + b * t1 = r1) : a * s + b * t = g := by
  induction h with
  | stop => exact h0
  | turn r0 r1 s0 s1 t0 t1 _ _ _ _ _ ih =>
    refine ih h1 ?_
    calc a * (s0 - (r0 / r1 : Nat) * s1) + b * (t0 - (r0 / r1 : Nat) * t1)
        = (a * s0 + b * t0) - (a * s1 + b * t1) * (r0 / r1 : Nat) := by ring
      _ = (r0 : Int) - r1 * (r0 / r1 : Nat) := by rw [h0, h1]
      _ = (r0 % r1 : Nat) := by rw [Int.natCast_mod, Int.emod_def, Int.natCast_div]

/-- The Bezout identity of a run from the start of R162. -/
theorem EuclidRun.bezout_start {a b g : Nat} {s t : Int} (h : EuclidRun a b 1 0 0 1 g s t) : (a : Int) * s + b * t = g :=
  h.bezout (by ring) (by ring)

/-! ### The size of the coefficients -/

/-- The coefficients `c0`, `c1` of the rows `r0`, `r1` are small beside `M`. The weighted sum never grows, and it is what bounds the
coefficient `c1` that the next turn makes the result. -/
structure CoefficientsBounded (M r0 r1 : Nat) (c0 c1 : Int) : Prop where
  weighted : c1.natAbs * r0 + c0.natAbs * r1 ≤ M
  result : 2 * c0.natAbs ≤ M

/-- A turn keeps the bound where `r1 < r0`: then `r0` is at least 2, so the weighted sum holds `c1` twice. -/
theorem CoefficientsBounded.turn {M r0 r1 : Nat} {c0 c1 : Int} (h : CoefficientsBounded M r0 r1 c0 c1) (hpos : r1 ≠ 0)
    (hlt : r1 < r0) : CoefficientsBounded M r1 (r0 % r1) c1 (c0 - (r0 / r1 : Nat) * c1) where
  weighted := by
    have hnew : (c0 - (r0 / r1 : Nat) * c1).natAbs ≤ c0.natAbs + r0 / r1 * c1.natAbs := by
      rw [← Int.natAbs_natCast (r0 / r1), ← Int.natAbs_mul]
      exact Int.natAbs_sub_le _ _
    calc (c0 - (r0 / r1 : Nat) * c1).natAbs * r1 + c1.natAbs * (r0 % r1)
        ≤ (c0.natAbs + r0 / r1 * c1.natAbs) * r1 + c1.natAbs * (r0 % r1) := by gcongr
      _ = c1.natAbs * (r1 * (r0 / r1) + r0 % r1) + c0.natAbs * r1 := by ring
      _ = c1.natAbs * r0 + c0.natAbs * r1 := by rw [Nat.div_add_mod]
      _ ≤ M := h.weighted
  result :=
    calc 2 * c1.natAbs ≤ r0 * c1.natAbs := Nat.mul_le_mul_right _ (by omega)
      _ = c1.natAbs * r0 := Nat.mul_comm _ _
      _ ≤ c1.natAbs * r0 + c0.natAbs * r1 := Nat.le_add_right _ _
      _ ≤ M := h.weighted

theorem EuclidRun.natAbs_le {M r0 r1 g : Nat} {s0 s1 t0 t1 s t : Int} (h : EuclidRun r0 r1 s0 s1 t0 t1 g s t)
    (hlt : r1 < r0) (hs : CoefficientsBounded M r0 r1 s0 s1) (ht : CoefficientsBounded M r0 r1 t0 t1) :
    2 * s.natAbs ≤ M ∧ 2 * t.natAbs ≤ M := by
  induction h with
  | stop => exact ⟨hs.result, ht.result⟩
  | turn r0 r1 _ _ _ _ _ _ _ hpos _ ih =>
    exact ih (Nat.mod_lt r0 (Nat.pos_of_ne_zero hpos)) (hs.turn hpos hlt) (ht.turn hpos hlt)

/-- The coefficients of operands up to `M` are at most half of `M` (R163). The first turn leaves `r1 < r0` whatever the order of the
operands was, and with no turn the coefficients are 1 and 0. -/
theorem EuclidRun.natAbs_le_of_start {M a b g : Nat} {s t : Int} (h : EuclidRun a b 1 0 0 1 g s t) (hM : 2 ≤ M) (ha : a ≤ M)
    (hb : b ≤ M) : 2 * s.natAbs ≤ M ∧ 2 * t.natAbs ≤ M := by
  cases h with
  | stop => exact ⟨hM, Nat.zero_le M⟩
  | turn _ _ _ _ _ _ _ _ _ hpos rest =>
    refine rest.natAbs_le (Nat.mod_lt a (Nat.pos_of_ne_zero hpos)) ⟨?_, Nat.zero_le M⟩ ⟨?_, hM⟩
    · simpa using hb
    · rwa [zero_sub, mul_one, Int.natAbs_neg, Int.natAbs_natCast, Int.natAbs_one, one_mul, Nat.div_add_mod']

/-- `sext_W` gives back a signed value of less than half the range from its two's complement (R11, R163). -/
theorem sextW_of_eq_emod {W n : Nat} {v : Int} (hW : W ≠ 0) (hn : (n : Int) = v % 2 ^ W) (hv : 2 * v.natAbs < 2 ^ W) :
    sextW W n = v := by
  obtain ⟨k, rfl⟩ := Nat.exists_eq_succ_of_ne_zero hW
  rw [Nat.succ_eq_add_one, Nat.pow_succ] at hv
  have hcast : (2 : Int) ^ (k + 1) = 2 * (2 ^ k : Nat) := by rw [Int.pow_succ, Int.mul_comm]; norm_cast
  rw [Nat.succ_eq_add_one, hcast] at hn
  rw [sextW, Nat.succ_eq_add_one, Nat.add_sub_cancel, Nat.cast_pow, Nat.cast_ofNat, hcast]
  generalize 2 ^ k = half at *
  obtain hneg | hpos := Int.lt_or_le v 0
  · have hval : (n : Int) = v + 2 * half := by
      rw [hn, ← Int.add_emod_right, Int.emod_eq_of_lt] <;> omega
    have htop : n / half = 1 := Nat.div_eq_of_lt_le (by omega) (by omega)
    rw [htop, if_pos rfl]
    omega
  · have hval : (n : Int) = v := by rw [hn, Int.emod_eq_of_lt hpos (by omega)]
    have htop : n / half = 0 := Nat.div_eq_of_lt (by omega)
    rw [htop, if_neg (by decide), hval]

/-! ### XGCD -/

/-- XGCD writes g, then s, then t (R162). -/
theorem exec_xgcd (d c e a b : Reg) (s : State) :
    exec (.xgcd d c e a b) s =
      .next ((((s.setReg d (extendedEuclid (s.reg a) (s.reg b)).r0).setReg c
        (truncIntW s.width (extendedEuclid (s.reg a) (s.reg b)).s0)).setReg e
        (truncIntW s.width (extendedEuclid (s.reg a) (s.reg b)).t0)).setFlags
        (s.flags.withZ (extendedEuclid (s.reg a) (s.reg b)).r0)).finish := rfl

/-- Settles O40: the model's loop is the rule's, and a destination holds the last of the three writes that names it. -/
theorem xgcdGivesTheBezoutCoefficients : Obligations.XgcdGivesTheBezoutCoefficients := by
  refine ⟨rowDecodes .xgcd, fun d c e a b s => ⟨_, exec_xgcd d c e a b s, ?_⟩⟩
  have run := euclidRun_extendedEuclid (s.reg a) (s.reg b)
  refine ⟨_, _, _, run, run.bezout_start, run.eq_gcd, ?t, fun hce => ?s, fun hdc hde => ?g,
    ((regsKept_setReg s d _).trans (regsKept_setReg _ c _)).trans (regsKept_setReg _ e _), fun _ => rfl, rfl, rfl,
    completed_finish s _ _ _ _⟩
  case t =>
    rw [State.reg_finish, State.reg_setFlags, State.reg_setReg, if_pos rfl]
    exact truncIntW_cast _ _
  case s =>
    rw [State.reg_finish, State.reg_setFlags, State.reg_setReg, if_neg hce, State.reg_setReg, if_pos rfl]
    exact truncIntW_cast _ _
  case g =>
    rw [State.reg_finish, State.reg_setFlags, State.reg_setReg, if_neg hde, State.reg_setReg, if_neg hdc, State.reg_setReg,
      if_pos rfl]

/-- Settles O41: the two registers hold the residues of O40, and the coefficients are below half of the range. -/
theorem xgcdCoefficientsAreExactAsSignedValues : Obligations.XgcdCoefficientsAreExactAsSignedValues := by
  intro d c e a b s t hlegal ha hb hdc hde hce hexec
  obtain ⟨-, spec⟩ := xgcdGivesTheBezoutCoefficients
  obtain ⟨u, hu, g, x, y, run, hbezout, -, ht, hs, hg, -⟩ := spec d c e a b s
  obtain rfl : u = t := Host.Outcome.next.inj (hu.symm.trans hexec)
  obtain ⟨⟨-, hwidth, -⟩, -, -⟩ := hlegal
  have hrange : 2 + 1 ≤ 2 ^ s.config.width :=
    calc 2 + 1 ≤ 2 ^ 64 := by decide
      _ ≤ 2 ^ s.config.width := Nat.pow_le_pow_right (by decide) hwidth
  obtain ⟨hx, hy⟩ := run.natAbs_le_of_start (Nat.le_sub_one_of_lt hrange) (Nat.le_sub_one_of_lt ha) (Nat.le_sub_one_of_lt hb)
  rw [hg hdc hde, sextW_of_eq_emod (by omega) (hs hce) (by omega), sextW_of_eq_emod (by omega) ht (by omega)]
  exact ⟨run, hbezout⟩

/-! ### MODINV -/

/-- MODINV with modulus 0 is the fault MOD_ZERO (R164). -/
theorem exec_modinv_zero (d a : Reg) {b : Reg} {s : State} (hb : s.reg b = 0) :
    exec (.modinv d a b) s = .next (s.recordFault .modZero).finish := if_pos hb

/-- MODINV with a common divisor is the fault NOT_INVERTIBLE (R164). -/
theorem exec_modinv_notInvertible (d : Reg) {a b : Reg} {s : State} (hb : s.reg b ≠ 0)
    (hgcd : Nat.gcd (s.reg a) (s.reg b) ≠ 1) : exec (.modinv d a b) s = .next (s.recordFault .notInvertible).finish :=
  (if_neg hb).trans (if_pos (by rwa [extendedEuclid_r0]))

/-- MODINV of coprime operands writes the floor remainder of the coefficient (R164). -/
theorem exec_modinv_invertible (d : Reg) {a b : Reg} {s : State} (hb : s.reg b ≠ 0)
    (hgcd : Nat.gcd (s.reg a) (s.reg b) = 1) :
    exec (.modinv d a b) s =
      complete ((s.setReg d ((extendedEuclid (s.reg a) (s.reg b)).s0 % (s.reg b : Int)).toNat).setFlags
        (s.flags.withZ ((extendedEuclid (s.reg a) (s.reg b)).s0 % (s.reg b : Int)).toNat)) :=
  (if_neg hb).trans (if_neg (by rwa [extendedEuclid_r0, not_not]))

/-- The residue of a Bezout coefficient is the inverse: modulo `m` the identity is `a*x = 1` (R164). -/
theorem mul_mod_eq_one_of_bezout {a m v : Nat} {x y : Int} (hbezout : (a : Int) * x + m * y = 1) (hv : (v : Int) = x % m) :
    a * v % m = 1 % m := by
  have hone : (a : Int) * x ≡ 1 [ZMOD m] := Int.modEq_iff_dvd.mpr ⟨y, by rw [← hbezout]; ring⟩
  have hcast : ((a * v : Nat) : Int) ≡ (1 : Nat) [ZMOD m] :=
    calc ((a * v : Nat) : Int) = a * (x % m) := by rw [Nat.cast_mul, hv]
      _ ≡ a * x [ZMOD m] := (Int.mod_modEq x m).mul_left a
      _ ≡ (1 : Nat) [ZMOD m] := hone
  exact Int.natCast_modEq_iff.mp hcast

/-- Settles O42, on the three ends of the command. -/
theorem modinvGivesTheInverse : Obligations.ModinvGivesTheInverse := by
  refine ⟨rowDecodes .modinv, fun d a b s => ?_⟩
  by_cases hb : s.reg b = 0
  · exact ⟨_, exec_modinv_zero d a hb, fun _ => faulted_finish .modZero s, fun h => absurd hb h, fun h => absurd hb h⟩
  by_cases hgcd : Nat.gcd (s.reg a) (s.reg b) = 1
  · obtain ⟨t, ht, hd, hregs, hbuf, hflags, hdraws, hdone⟩ := complete_setReg (exec_modinv_invertible d hb hgcd)
    refine ⟨t, ht, fun h => absurd h hb, fun _ h => absurd hgcd h, fun _ _ => ?_⟩
    have run := euclidRun_extendedEuclid (s.reg a) (s.reg b)
    rw [extendedEuclid_r0, hgcd] at run
    have hcast : (t.reg d : Int) = (extendedEuclid (s.reg a) (s.reg b)).s0 % (s.reg b : Int) := by
      rw [hd, Int.toNat_of_nonneg (Int.emod_nonneg _ (Int.natCast_ne_zero.mpr hb))]
    exact ⟨⟨_, _, run, hcast⟩, hd ▸ toNat_emod_lt hb _, mul_mod_eq_one_of_bezout run.bezout_start hcast, hregs, hbuf,
      by rw [hflags, hd]; rfl, hdraws, hdone⟩
  · exact ⟨_, exec_modinv_notInvertible d hb hgcd, fun h => absurd h hb, fun _ _ => faulted_finish .notInvertible s,
      fun _ h => absurd h hgcd⟩

end Sys2Proof.Machine
end

section
/-! SUPPORT. The modular power, the rounds of the Miller-Rabin tester and the draws against the terms of R184 and R185, and with these
the tester and the random source (R181 to R191). -/

namespace Sys2Proof.Machine

/-! ### The modular power -/

/-- A power by its square: the step of square and multiply (R233). -/
theorem pow_eq_mul_pow_half (b e : Nat) : b ^ e = (if e % 2 = 1 then b else 1) * (b * b) ^ (e / 2) := by
  have hsquare : b ^ e = b ^ (e % 2) * (b * b) ^ (e / 2) := by
    rw [← pow_two, ← pow_mul, ← pow_add, Nat.mod_add_div]
  rcases Nat.mod_two_eq_zero_or_one e with h | h <;> rw [hsquare, h] <;> simp

/-- The loop of square and multiply keeps `acc * b ** e` modulo `m`, and its fuel covers the bits of `e` (R233). -/
theorem powModLoop_eq (m : Nat) {fuel e : Nat} (b acc : Nat) (hfuel : e < 2 ^ fuel) :
    powModLoop m fuel b e acc = acc * b ^ e % m := by
  induction fuel generalizing b e acc with
  | zero => simp [powModLoop, Nat.lt_one_iff.mp hfuel]
  | succ fuel ih =>
    rw [powModLoop]
    split
    · next he => simp [he]
    · rw [ih _ _ (by omega), pow_eq_mul_pow_half b e]
      have hsquare : (b * b % m) ^ (e / 2) ≡ (b * b) ^ (e / 2) [MOD m] := (Nat.mod_modEq _ _).pow _
      split
      · exact ((Nat.mod_modEq _ _).mul hsquare).trans (by rw [Nat.mul_assoc])
      · rw [Nat.one_mul]
        exact hsquare.mul_left acc

/-- The modular power is exact for every modulus (R232, R233). -/
theorem powMod_eq (b e m : Nat) : powMod b e m = b ^ e % m := by
  have hfuel : e < 2 ^ bitlen e := by
    by_cases he : e = 0
    · simp [he, bitlen]
    · obtain ⟨-, -, hlt⟩ := bitlen_bounds he
      exact hlt
  rw [powMod, powModLoop_eq m _ _ hfuel, Nat.one_mul, ← Nat.pow_mod]

/-! ### The decomposition of the candidate -/

/-- `n = d * 2**s` with `d` odd (R183). -/
def IsDecomposition (n d s : Nat) : Prop := d % 2 = 1 ∧ d * 2 ^ s = n

/-- Halving while the number is even keeps `d * 2**s`, and the fuel covers the bits of `d` (R183). -/
theorem stripTwos_isDecomposition {fuel d : Nat} (s : Nat) (hd : d ≠ 0) (hfuel : d < 2 ^ fuel) :
    IsDecomposition (d * 2 ^ s) (stripTwos fuel d s).1 (stripTwos fuel d s).2 := by
  induction fuel generalizing d s with
  | zero => exact absurd (Nat.lt_one_iff.mp hfuel) hd
  | succ fuel ih =>
    rw [stripTwos]
    split
    · next heven =>
      have hhalf : d / 2 * 2 ^ (s + 1) = d * 2 ^ s := by
        rw [pow_succ', ← Nat.mul_assoc, Nat.div_mul_cancel (Nat.dvd_of_mod_eq_zero heven)]
      exact hhalf ▸ ih (s + 1) (by omega) (by omega)
    · next hodd => exact ⟨Nat.mod_two_ne_zero.mp hodd, rfl⟩

theorem decompose_isDecomposition {c : Nat} (hc : 2 ≤ c) : IsDecomposition (c - 1) (decompose c).1 (decompose c).2 := by
  have hne : c - 1 ≠ 0 := by omega
  obtain ⟨-, -, hlt⟩ := bitlen_bounds hne
  have h := stripTwos_isDecomposition 0 hne hlt
  rwa [pow_zero, Nat.mul_one] at h

/-- With no more factors of two in the first, the decompositions of a number agree. -/
theorem IsDecomposition.eq_of_le {n d s d' s' : Nat} (h : IsDecomposition n d s) (h' : IsDecomposition n d' s') (hle : s ≤ s') :
    d = d' ∧ s = s' := by
  obtain ⟨hodd, hprod⟩ := h
  obtain ⟨-, hprod'⟩ := h'
  obtain ⟨k, rfl⟩ := Nat.exists_eq_add_of_le hle
  have hd : d = d' * 2 ^ k := by
    refine Nat.eq_of_mul_eq_mul_right (Nat.two_pow_pos s) ?_
    rw [hprod, ← hprod', pow_add, Nat.mul_comm (2 ^ s), Nat.mul_assoc]
  cases k with
  | zero => simpa using hd
  | succ k => rw [hd, pow_succ, ← Nat.mul_assoc, Nat.mul_mod_left] at hodd; omega

/-- The decomposition of R183 is unique. -/
theorem IsDecomposition.unique {n d s d' s' : Nat} (h : IsDecomposition n d s) (h' : IsDecomposition n d' s') :
    d = d' ∧ s = s' := by
  rcases Nat.le_total s s' with hle | hle
  · exact h.eq_of_le h' hle
  · obtain ⟨hd, hs⟩ := h'.eq_of_le h hle
    exact ⟨hd.symm, hs.symm⟩

/-! ### One round -/

/-- Squaring modulo `c` and then raising to `2**j` is raising to `2**(j+1)`. -/
theorem square_pow_mod (c y j : Nat) : (y * y % c) ^ 2 ^ j % c = y ^ 2 ^ (j + 1) % c := by
  rw [← Nat.pow_mod, ← pow_two, ← pow_mul, ← pow_succ']

/-- The squaring loop passes exactly when one of its squarings gives `c - 1`: after a 1, which rejects at once, every later squaring
gives 1 again (R184). -/
theorem squaringLoop_iff {c : Nat} (hc : 3 ≤ c) (n y : Nat) :
    squaringLoop c n y = true ↔ ∃ j < n, y ^ 2 ^ (j + 1) % c = c - 1 := by
  induction n generalizing y with
  | zero => simp [squaringLoop]
  | succ n ih =>
    rw [squaringLoop, Nat.exists_lt_succ_left]
    simp only [← square_pow_mod c y, pow_zero, pow_one, Nat.mod_mod]
    split
    · next hone =>
      have hne : 1 ≠ c - 1 := by omega
      have hmod : 1 % c = 1 := Nat.mod_eq_of_lt (by omega)
      simp [hone, hmod, hne]
    · split
      · next hlast => simp [hlast]
      · next hlast => simp [hlast, ih]

/-- A round of the tester passes exactly when the round of R184 does. -/
theorem mrRound_iff {c d s : Nat} (hc : 3 ≤ c) (h : IsDecomposition (c - 1) d s) (a : Nat) :
    mrRound c d s a = true ↔ RoundPasses c a := by
  have hround : mrRound c d s a = true ↔ a ^ d % c = 1 ∨ ∃ j ≤ s, a ^ (d * 2 ^ j) % c = c - 1 := by
    have hpow (j : Nat) : (a ^ d % c) ^ 2 ^ j % c = a ^ (d * 2 ^ j) % c := by rw [← Nat.pow_mod, ← pow_mul]
    simp only [← Nat.lt_succ_iff, Nat.exists_lt_succ_left, ← hpow]
    simp [mrRound, powMod_eq, squaringLoop_iff hc, or_assoc]
  rw [hround]
  constructor
  · obtain ⟨hodd, hprod⟩ := h
    exact fun hpass => ⟨d, s, hodd, hprod, hpass⟩
  · rintro ⟨d', s', hodd, hprod, hpass⟩
    obtain ⟨rfl, rfl⟩ := h.unique ⟨hodd, hprod⟩
    exact hpass

/-- In a ring without zero divisors, a number whose repeated squaring reaches 1 is 1 or passes through -1. -/
theorem eq_one_or_exists_pow_eq_neg_one {R : Type*} [Ring R] [NoZeroDivisors R] {x : R} {s : Nat} (h : x ^ 2 ^ s = 1) :
    x = 1 ∨ ∃ j ≤ s, x ^ 2 ^ j = -1 := by
  induction s with
  | zero => exact .inl (by simpa using h)
  | succ s ih =>
    rw [pow_succ, pow_mul, sq, mul_self_eq_one_iff] at h
    rcases h with h | h
    · exact (ih h).imp_right fun ⟨j, hj, hx⟩ => ⟨j, by omega, hx⟩
    · exact .inr ⟨s, by omega, h⟩

/-- For a prime `c` every base from 1 to `c - 1` passes: `a**(c-1)` is 1 by Fermat, and a prime has no other roots of 1 than 1 and
`c - 1` (R188). -/
theorem roundPasses_of_prime {c a : Nat} (hc : c.Prime) (ha : 1 ≤ a) (hac : a < c) : RoundPasses c a := by
  have := Fact.mk hc
  obtain ⟨hodd, hprod⟩ := decompose_isDecomposition hc.two_le
  have hne : (a : ZMod c) ≠ 0 := by
    rw [Ne, ZMod.natCast_eq_zero_iff]
    exact Nat.not_dvd_of_pos_of_lt ha hac
  have hone : ((a : ZMod c) ^ (decompose c).1) ^ 2 ^ (decompose c).2 = 1 := by
    rw [← pow_mul, hprod, ZMod.pow_card_sub_one_eq_one hne]
  have hmod {n v : Nat} (hv : v < c) (h : (n : ZMod c) = v) : n % c = v := by
    rw [(ZMod.natCast_eq_natCast_iff' n v c).mp h, Nat.mod_eq_of_lt hv]
  refine ⟨_, _, hodd, hprod, (eq_one_or_exists_pow_eq_neg_one hone).imp (fun h => ?_) fun ⟨j, hj, h⟩ => ⟨j, hj, ?_⟩⟩
  · exact hmod hc.one_lt (by simpa using h)
  · refine hmod (by omega) ?_
    rw [Nat.cast_pow, pow_mul, h, Nat.cast_sub hc.one_le, ZMod.natCast_self, Nat.cast_one, zero_sub]

/-! ### The rounds of a run -/

/-- How a run of at most `k` rounds ends after `n` of them, where `passes i` says that round `i` passes: accepted with every round run
and passed, or rejected by the last round run, the first that fails (R181). -/
def RoundsEnd (passes : Nat → Prop) (k : Nat) (accepted : Bool) (n : Nat) : Prop :=
  (accepted = true ∧ n = k ∧ ∀ i < n, passes i) ∨
    (accepted = false ∧ 1 ≤ n ∧ (∀ i < n - 1, passes i) ∧ ¬ passes (n - 1))

/-- A run whose first round passes ends as the run of its other rounds. -/
theorem RoundsEnd.succ {passes : Nat → Prop} {k n : Nat} {accepted : Bool} (h0 : passes 0)
    (h : RoundsEnd (fun i => passes (i + 1)) k accepted n) : RoundsEnd passes (k + 1) accepted (n + 1) := by
  rcases h with ⟨hacc, hn, hall⟩ | ⟨hrej, hn, hall, hlast⟩
  · exact .inl ⟨hacc, by rw [hn], Nat.forall_lt_succ_left.mpr ⟨h0, hall⟩⟩
  · obtain ⟨n, rfl⟩ := Nat.exists_eq_add_of_le' hn
    exact .inr ⟨hrej, by omega, Nat.forall_lt_succ_left.mpr ⟨h0, hall⟩, hlast⟩

/-- A run whose first round fails. -/
theorem RoundsEnd.reject {passes : Nat → Prop} {k : Nat} (h0 : ¬ passes 0) : RoundsEnd passes k false 1 :=
  .inr ⟨rfl, le_rfl, nofun, h0⟩

/-- The bases after the first draw: base `i` is the base that was `i + 1` before it. -/
theorem mrBase_advance (c : Nat) (st : FreeStream) (i : Nat) : mrBase c (st.advance 1) i = mrBase c st (i + 1) := by
  rw [mrBase, FreeStream.nth_advance, Nat.add_comm, mrBase]

/-- The bases of a run are in the set of R185. -/
theorem mrBase_mem {c : Nat} (hc : 5 ≤ c) (st : FreeStream) (i : Nat) : 3 ≤ mrBase c st i ∧ mrBase c st i ≤ c - 2 := by
  obtain ⟨hlo, hhi⟩ := elementOf_mem 3 (c - 4) (st.nth Config.freeDraw i) (by omega)
  exact ⟨hlo, by rw [mrBase]; omega⟩

/-- Each round that starts takes one draw, and the first that fails ends the run (R185). -/
theorem mrRounds_end {c d s : Nat} (hc : 3 ≤ c) (h : IsDecomposition (c - 1) d s) (k : Nat) (st : FreeStream) :
    ∃ n ≤ k, (mrRounds c d s k st).2 = st.advance n ∧
      RoundsEnd (fun i => RoundPasses c (mrBase c st i)) k (mrRounds c d s k st).1 n := by
  induction k generalizing st with
  | zero => exact ⟨0, le_rfl, st.advance_zero.symm, .inl ⟨rfl, rfl, nofun⟩⟩
  | succ k ih =>
    rw [mrRounds, draw_eq]
    have hfirst := mrRound_iff hc h (mrBase c st 0)
    split
    · next hpass =>
      obtain ⟨n, hn, hdraws, hend⟩ := ih (st.advance 1)
      simp only [mrBase_advance] at hend
      exact ⟨n + 1, by omega, by rw [hdraws, FreeStream.advance_advance, Nat.add_comm], hend.succ (hfirst.mp hpass)⟩
    · next hfail => exact ⟨1, by omega, rfl, .reject (mt hfirst.mpr hfail)⟩

/-! ### MRTEST -/

theorem millerRabin_small_composite {c : Nat} (hc : c ≤ 1 ∨ c = 4) (k : Nat) (st : FreeStream) :
    millerRabin c k st = (false, st) := by
  rcases hc with hc | rfl
  · exact if_pos hc
  · rfl

theorem millerRabin_small_prime {c : Nat} (hc : c = 2 ∨ c = 3) (k : Nat) (st : FreeStream) :
    millerRabin c k st = (true, st) := by
  rcases hc with rfl | rfl <;> rfl

theorem millerRabin_of_five_le {c : Nat} (hc : 5 ≤ c) (k : Nat) (st : FreeStream) :
    millerRabin c k st = mrRounds c (decompose c).1 (decompose c).2 k st := by
  rw [millerRabin, if_neg (by omega), if_neg (by omega), if_neg (by omega)]

/-- Settles O43, on the three ranges of the candidate; the rounds end as `mrRounds_end` says. -/
theorem mrtestAcceptsWhenEveryRoundPasses : Obligations.MrtestAcceptsWhenEveryRoundPasses := by
  refine ⟨rowDecodes .mrtest, fun a imm s => ?_⟩
  refine ⟨_, rfl, fun _ _ => rfl, fun _ => rfl, rfl, completed_finish s _ _ _ _, fun hc => ?_, fun hc => ?_, fun hc => ?_⟩
  · have hrun := millerRabin_small_composite hc (imm8Value imm) s.draws
    exact ⟨congrArg Prod.fst hrun, congrArg Prod.snd hrun⟩
  · have hrun := millerRabin_small_prime hc (imm8Value imm) s.draws
    exact ⟨congrArg Prod.fst hrun, congrArg Prod.snd hrun⟩
  · have hrun := millerRabin_of_five_le hc (imm8Value imm) s.draws
    obtain ⟨n, hn, hdraws, hend⟩ :=
      mrRounds_end (c := s.reg a) (by omega) (decompose_isDecomposition (by omega)) (imm8Value imm) s.draws
    rw [← hrun] at hdraws hend
    exact ⟨n, hn, hdraws, fun i _ => mrBase_mem hc s.draws i, hend⟩

/-- Settles O44: a rejected candidate has a base whose round fails, and a prime has none. -/
theorem mrtestAcceptsEveryPrime : Obligations.MrtestAcceptsEveryPrime := by
  intro a imm s t hprime ht
  obtain ⟨-, hmrtest⟩ := mrtestAcceptsWhenEveryRoundPasses
  obtain ⟨t', ht', -, -, -, -, -, hsmall, hlarge⟩ := hmrtest a imm s
  obtain rfl : t = t' := Host.Outcome.next.inj (ht.symm.trans ht')
  have htwo := hprime.two_le
  have hfour : s.reg a ≠ 4 := fun h => by rw [h] at hprime; exact absurd hprime (by decide)
  by_cases hc : 5 ≤ s.reg a
  · obtain ⟨n, -, -, hbases, ⟨haccepted, -⟩ | ⟨-, hn, -, hfails⟩⟩ := hlarge hc
    · exact haccepted
    · obtain ⟨hlo, hhi⟩ := hbases (n - 1) (by omega)
      exact absurd (roundPasses_of_prime hprime (by omega) (by omega)) hfails
  · obtain ⟨haccepted, -⟩ := hsmall (by omega)
    exact haccepted

/-! ### RAND -/

/-- RAND with bound 0 is the fault EMPTY_RANGE, with no draw (R191). -/
theorem exec_rand_zero (d : Reg) {a : Reg} {s : State} (ha : s.reg a = 0) :
    exec (.rand d a) s = .next (s.recordFault .emptyRange).finish := if_pos ha

/-- RAND with any other bound writes one draw below it (R191). -/
theorem exec_rand_of_ne_zero (d : Reg) {a : Reg} {s : State} (ha : s.reg a ≠ 0) :
    exec (.rand d a) s =
      .next (((s.setReg d (draw 0 (s.reg a) s.draws).1).setDraws (draw 0 (s.reg a) s.draws).2).setFlags
        (s.flags.withZ (draw 0 (s.reg a) s.draws).1)).finish := if_neg ha

/-- A supplied value below the bound is the value drawn (R190). -/
theorem draw_supplied {n v : Nat} {rest : List Nat} {st : FreeStream} (hv : v < n) (h : st.supplied = v :: rest) :
    (draw 0 n st).1 = v := by
  have hnext : st.nth Config.freeDraw 0 = v := by simp [FreeStream.nth, h]
  rw [draw_eq, hnext]
  exact elementOf_of_mem (by omega)

/-- Settles O45, on the two branches of the bound. -/
theorem randDrawsBelowItsBound : Obligations.RandDrawsBelowItsBound := by
  refine ⟨rowDecodes .rand, fun d a s => ?_⟩
  by_cases ha : s.reg a = 0
  · exact ⟨_, exec_rand_zero d ha, fun _ => faulted_finish .emptyRange s, fun hne => absurd ha hne⟩
  · refine ⟨_, exec_rand_of_ne_zero d ha, fun h0 => absurd h0 ha, fun _ => ?_⟩
    rw [State.reg_finish, State.reg_setFlags, State.reg_setDraws, State.reg_setReg, if_pos rfl]
    exact ⟨draw_zero_lt ha s.draws, congrArg Prod.snd (draw_eq 0 (s.reg a) s.draws), fun _ _ => draw_supplied,
      regsKept_setReg s d _, fun _ => rfl, rfl, completed_finish s _ _ _ _⟩

end Sys2Proof.Machine
end

section
/-! SUPPORT. The block size, the little-endian digits of a chunk, and the length of a payload from its block count and marker (R200, R204,
R207, R252), and with these the block encoder and decoder (R201 to R209). -/

namespace Sys2Proof.Machine

/-! ### BSIZE -/

/-- The bounds of R11 determine the bit length. -/
theorem bitlen_eq_of_bounds {v b : Nat} (hb : 1 ≤ b) (hlow : 2 ^ (b - 1) ≤ v) (hhigh : v < 2 ^ b) : bitlen v = b := by
  have hv : v ≠ 0 := Nat.ne_zero_of_lt ((Nat.two_pow_pos _).trans_le hlow)
  obtain ⟨-, -, hlt⟩ := bitlen_bounds hv
  have hle : bitlen v ≤ b := bitlen_le_of_lt hhigh
  have hge : b - 1 < bitlen v := (Nat.pow_lt_pow_iff_right (by decide)).mp (hlow.trans_lt hlt)
  omega

/-- The block size is the largest `k` with `256**k <= n`: a byte is eight bits (R200, R201). -/
theorem blockSize_bounds {n : Nat} (hn : n ≠ 0) : 256 ^ blockSize n ≤ n ∧ n < 256 ^ (blockSize n + 1) := by
  obtain ⟨hpos, hlow, hhigh⟩ := bitlen_bounds hn
  have hbytes (k : Nat) : 256 ^ k = 2 ^ (8 * k) := (Nat.pow_mul 2 8 k).symm
  rw [hbytes, hbytes, blockSize]
  exact ⟨(Nat.pow_le_pow_right (by decide) (by omega)).trans hlow,
    hhigh.trans_le (Nat.pow_le_pow_right (by decide) (by omega))⟩

/-- BSIZE of modulus 0 is the fault MOD_ZERO (R201). -/
theorem exec_bsize_zero (d : Reg) {a : Reg} {s : State} (ha : s.reg a = 0) :
    exec (.bsize d a) s = .next (s.recordFault .modZero).finish := if_pos ha

/-- BSIZE of any other modulus writes its block size (R201). -/
theorem exec_bsize_of_ne_zero (d : Reg) {a : Reg} {s : State} (ha : s.reg a ≠ 0) :
    exec (.bsize d a) s =
      complete ((s.setReg d (blockSize (s.reg a))).setFlags (s.flags.withZ (blockSize (s.reg a)))) := if_neg ha

/-- Settles O46, on the two branches of the modulus. -/
theorem bsizeGivesTheBlockSize : Obligations.BsizeGivesTheBlockSize := by
  refine ⟨rowDecodes .bsize, fun d a s => ?_⟩
  by_cases ha : s.reg a = 0
  · exact ⟨_, exec_bsize_zero d ha, fun _ => faulted_finish .modZero s, fun hne => absurd ha hne⟩
  · obtain ⟨t, ht, hd, hregs, hbuf, hflags, hdraws, hdone⟩ := complete_setReg (exec_bsize_of_ne_zero d ha)
    obtain ⟨hlow, hhigh⟩ := blockSize_bounds ha
    rw [← hd] at hlow hhigh hflags
    refine ⟨t, ht, fun h0 => absurd h0 ha, fun _ => ⟨fun b hb hblow hbhigh => ?_, hlow, hhigh, hregs, hbuf, hflags,
      hdraws, hdone⟩⟩
    rw [hd, blockSize, bitlen_eq_of_bounds hb hblow hbhigh]

/-! ### PACK -/

/-- `MemRead` is the little-endian sum of its bytes (R12, R202). -/
theorem memRead_eq_sum (m : Memory) (o n : Nat) :
    memRead m o n = ∑ i ∈ Finset.range n, (m.read (o + i)).toNat * 256 ^ i := by
  induction n with
  | zero => rfl
  | succ n ih => rw [memRead, Finset.sum_range_succ, ih]

/-- The digits of `MemRead` are the bytes it reads (R208). -/
theorem memRead_digit (m : Memory) (o : Nat) {i n : Nat} (hi : i < n) :
    memRead m o n / 256 ^ i % 256 = (m.read (o + i)).toNat := by
  induction n with
  | zero => exact absurd hi (Nat.not_lt_zero i)
  | succ n ih =>
    have hlow := memRead_lt m o n
    rw [memRead]
    obtain hi | rfl := Nat.lt_succ_iff_lt_or_eq.mp hi
    · rw [← mod_pow_byte _ hi, Nat.add_mul_mod_self_right, Nat.mod_eq_of_lt hlow, ih hi]
    · rw [Nat.add_mul_div_right _ _ (Nat.pow_pos (by decide)), Nat.div_eq_of_lt hlow, Nat.zero_add,
        Nat.mod_eq_of_lt (m.read (o + i)).isLt]

section
variable {a b : Reg} {s : State}

/-- PACK of a range out of BUF is the fault BUF_RANGE, whatever the modulus (R203). -/
theorem exec_pack_bufRange (d c : Reg)
    (h : s.reg b > s.config.width / 8 ∨ s.reg a + s.reg b > s.config.bufSize) :
    exec (.pack d a b c) s = .next (s.recordFault .bufRange).finish := if_pos ((bufRangeBad_iff s _ _).mpr h)

/-- PACK of a chunk whose value is not below the modulus is the fault MOD_OVF_BLOCK (R203). -/
theorem exec_pack_modOvfBlock (d : Reg) {c : Reg}
    (h : ¬ (s.reg b > s.config.width / 8 ∨ s.reg a + s.reg b > s.config.bufSize))
    (hv : s.reg c ≤ memRead s.buf (s.reg a) (s.reg b)) :
    exec (.pack d a b c) s = .next (s.recordFault .modOvfBlock).finish :=
  (if_neg (mt (bufRangeBad_iff s _ _).mp h)).trans (if_pos hv)

/-- PACK of any other chunk writes its value (R202). -/
theorem exec_pack_of_lt (d : Reg) {c : Reg}
    (h : ¬ (s.reg b > s.config.width / 8 ∨ s.reg a + s.reg b > s.config.bufSize))
    (hv : memRead s.buf (s.reg a) (s.reg b) < s.reg c) :
    exec (.pack d a b c) s =
      complete ((s.setReg d (memRead s.buf (s.reg a) (s.reg b))).setFlags
        (s.flags.withZ (memRead s.buf (s.reg a) (s.reg b)))) :=
  (if_neg (mt (bufRangeBad_iff s _ _).mp h)).trans (if_neg (Nat.not_le.mpr hv))

end

/-- Settles O47, on the three ends of the command. -/
theorem packReadsALittleEndianChunk : Obligations.PackReadsALittleEndianChunk := by
  refine ⟨rowDecodes .pack, fun d a b c s => ?_⟩
  rw [← memRead_eq_sum]
  intro v
  by_cases hrange : s.reg b > s.config.width / 8 ∨ s.reg a + s.reg b > s.config.bufSize
  · exact ⟨_, exec_pack_bufRange d c hrange, fun _ => faulted_finish .bufRange s, by omega, by omega⟩
  obtain hv | hv := le_or_gt (s.reg c) v
  · exact ⟨_, exec_pack_modOvfBlock d hrange hv, fun h => absurd h hrange, fun _ _ _ => faulted_finish .modOvfBlock s,
      fun _ _ hlt => absurd hv hlt.not_ge⟩
  · obtain ⟨t, ht, hspec⟩ := complete_setReg (exec_pack_of_lt d hrange hv)
    exact ⟨t, ht, fun h => absurd h hrange, fun _ _ hle => absurd hv hle.not_gt, fun _ _ _ => hspec⟩

/-! ### UNPACK -/

/-- UNPACK to a range out of BUF is the fault BUF_RANGE (R205). -/
theorem exec_unpack_bufRange {a b : Reg} (c : Reg) {s : State}
    (h : s.reg b > s.config.width / 8 ∨ s.reg a + s.reg b > s.config.bufSize) :
    exec (.unpack a b c) s = .next (s.recordFault .bufRange).finish := if_pos ((bufRangeBad_iff s _ _).mpr h)

/-- UNPACK to a range of BUF writes the digits and T (R204). -/
theorem exec_unpack_of_fits {a b : Reg} (c : Reg) {s : State}
    (h : ¬ (s.reg b > s.config.width / 8 ∨ s.reg a + s.reg b > s.config.bufSize)) :
    exec (.unpack a b c) s =
      .next ((s.setBuf (memWrite s.buf (s.reg a) (s.reg c) (s.reg b))).setFlags
        (s.flags.ofUnpack (s.reg c) (s.reg b))).finish := if_neg (mt (bufRangeBad_iff s _ _).mp h)

/-- Settles O48: on the branch that fits, `memWrite_read` says what every offset reads. -/
theorem unpackWritesTheLowDigits : Obligations.UnpackWritesTheLowDigits := by
  refine ⟨rowDecodes .unpack, fun a b c s => ?_⟩
  by_cases hrange : s.reg b > s.config.width / 8 ∨ s.reg a + s.reg b > s.config.bufSize
  · exact ⟨_, exec_unpack_bufRange c hrange, fun _ => faulted_finish .bufRange s, by omega⟩
  refine ⟨_, exec_unpack_of_fits c hrange, fun h => absurd h hrange, fun _ _ hwf => ⟨fun i hi => ?inside, fun o ho => ?outside,
    fun _ _ => rfl, rfl, rfl, completed_finish s _ _ _ _⟩⟩
  case inside =>
    rw [State.finish_buf, State.setFlags_buf, State.setBuf_buf, memWrite_read _ _ _ _ _ hwf, if_pos (by omega),
      Nat.add_sub_cancel_left]
    exact Nat.mod_mod _ _
  case outside =>
    rw [State.finish_buf, State.setFlags_buf, State.setBuf_buf, memWrite_read _ _ _ _ _ hwf, if_neg (by omega)]

/-- Settles O53: the packed value has the bytes of the chunk as its digits, and no digit above them. -/
theorem packThenUnpackRestoresTheChunk : Obligations.PackThenUnpackRestoresTheChunk := by
  intro d a b c a' s t u hwf hda hdb hcount hfits hfits' hpack herr hunpack
  obtain ⟨-, packs⟩ := packReadsALittleEndianChunk
  obtain ⟨-, unpacks⟩ := unpackWritesTheLowDigits
  obtain ⟨t', ht', -, hovf, hpacked⟩ := packs d a b c s
  obtain rfl : t = t' := Host.Outcome.next.inj (hpack.symm.trans ht')
  rw [← memRead_eq_sum] at hovf hpacked
  have hlt : memRead s.buf (s.reg a) (s.reg b) < s.reg c :=
    Nat.lt_of_not_le fun hle => absurd (herr.symm.trans (hovf hcount hfits hle).err) nofun
  obtain ⟨hd, hregs, -, -, -, hdone⟩ := hpacked hcount hfits hlt
  have ha' : t.reg a' = s.reg a' := hregs a' (by simpa using hda.symm)
  have hb : t.reg b = s.reg b := hregs b (by simpa using hdb.symm)
  have hbuf : t.buf = s.buf := exec_buf (i := .pack d a b c) nofun hpack
  obtain ⟨u', hu', -, hunpacked⟩ := unpacks a' b d t
  obtain rfl : u = u' := Host.Outcome.next.inj (hunpack.symm.trans hu')
  rw [ha', hb, hd, hbuf, hdone.config] at hunpacked
  obtain ⟨hdigits, -, -, hflags, -⟩ := hunpacked hcount hfits' hwf
  refine ⟨fun i hi => BitVec.eq_of_toNat_eq ?_, ?_⟩
  · rw [hdigits i hi, memRead_digit _ _ hi]
  · rw [hflags]
    exact decide_eq_false (memRead_lt s.buf (s.reg a) (s.reg b)).not_ge

/-! ### MARKER -/

/-- MARKER with block size 0 is the fault BLK_ZERO (R206). -/
theorem exec_marker_zero (d a : Reg) {b : Reg} {s : State} (hb : s.reg b = 0) :
    exec (.marker d a b) s = .next (s.recordFault .blkZero).finish := if_pos hb

/-- MARKER with any other block size writes the remainder (R206). -/
theorem exec_marker_of_ne_zero (d a : Reg) {b : Reg} {s : State} (hb : s.reg b ≠ 0) :
    exec (.marker d a b) s =
      complete ((s.setReg d (s.reg a % s.reg b)).setFlags (s.flags.withZ (s.reg a % s.reg b))) := if_neg hb

/-- Settles O49, on the two branches of the block size. -/
theorem markerGivesTheTrailingLength : Obligations.MarkerGivesTheTrailingLength := by
  refine ⟨rowDecodes .marker, fun d a b s => ?_⟩
  by_cases hb : s.reg b = 0
  · exact ⟨_, exec_marker_zero d a hb, fun _ => faulted_finish .blkZero s, fun hne => absurd hb hne⟩
  · obtain ⟨t, ht, hspec⟩ := complete_setReg (exec_marker_of_ne_zero d a hb)
    exact ⟨t, ht, fun h0 => absurd h0 hb, fun _ => hspec⟩

/-! ### DLEN -/

/-- The block count, the marker and the block size are those of no payload whose length a register holds (R207). -/
def MalformedCounts (W m r k : Nat) : Prop := k ≤ r ∨ (r ≠ 0 ∧ m = 0) ∨ 2 ^ W ≤ decodedLength m r k

theorem not_malformedCounts_iff {W m r k : Nat} :
    ¬ MalformedCounts W m r k ↔ r < k ∧ (r = 0 ∨ m ≠ 0) ∧ decodedLength m r k < 2 ^ W := by
  rw [MalformedCounts, not_or, not_or, not_and_or, not_not, Nat.not_le, Nat.not_le]

section
variable {a b c : Reg} {s : State}

/-- DLEN with block size 0 is the fault BLK_ZERO (R207). -/
theorem exec_dlen_zero (d a b : Reg) (hk : s.reg c = 0) :
    exec (.dlen d a b c) s = .next (s.recordFault .blkZero).finish := if_pos hk

/-- The three other checks of DLEN all give the fault MALFORMED (R207). -/
theorem exec_dlen_malformed (d : Reg) (hk : s.reg c ≠ 0)
    (h : MalformedCounts s.config.width (s.reg a) (s.reg b) (s.reg c)) :
    exec (.dlen d a b c) s = .next (s.recordFault .malformed).finish := by
  refine (if_neg hk).trans ?_
  split
  · rfl
  · next hmarker =>
    split
    · rfl
    · next hempty => exact if_pos ((h.resolve_left hmarker).resolve_left hempty)

/-- DLEN that passes its checks writes the length (R207). -/
theorem exec_dlen_of_not_malformed (d : Reg) (hk : s.reg c ≠ 0)
    (h : ¬ MalformedCounts s.config.width (s.reg a) (s.reg b) (s.reg c)) :
    exec (.dlen d a b c) s =
      complete ((s.setReg d (decodedLength (s.reg a) (s.reg b) (s.reg c))).setFlags
        (s.flags.withZ (decodedLength (s.reg a) (s.reg b) (s.reg c)))) := by
  rw [MalformedCounts, not_or, not_or] at h
  obtain ⟨hmarker, hempty, hlength⟩ := h
  exact (if_neg hk).trans ((if_neg hmarker).trans ((if_neg hempty).trans (if_neg hlength)))

end

/-- Settles O50, on the three ends of the command. -/
theorem dlenGivesThePayloadLength : Obligations.DlenGivesThePayloadLength := by
  refine ⟨rowDecodes .dlen, fun d a b c s => ?_⟩
  intro m r k L
  by_cases hk : k = 0
  · exact ⟨_, exec_dlen_zero d a b hk, fun _ => faulted_finish .blkZero s, fun hne => absurd hk hne, fun hne => absurd hk hne⟩
  by_cases h : MalformedCounts s.config.width m r k
  · exact ⟨_, exec_dlen_malformed d hk h, fun h0 => absurd h0 hk, fun _ _ => faulted_finish .malformed s,
      fun _ hr hm hL => absurd h (not_malformedCounts_iff.mpr ⟨hr, hm, hL⟩)⟩
  · obtain ⟨t, ht, hspec⟩ := complete_setReg (exec_dlen_of_not_malformed d hk h)
    exact ⟨t, ht, fun h0 => absurd h0 hk, fun _ hbad => absurd hbad h, fun _ _ _ _ => hspec⟩

/-! ### The chunks of a payload -/

section
variable {L k : Nat}

/-- The marker is 0: every chunk is full (R252). -/
theorem chunkCount_of_mod_eq_zero (hk : k ≠ 0) (h : L % k = 0) : chunkCount L k = L / k := by
  have hL : L + k - 1 = (k - 1) + k * (L / k) := by rw [Nat.mul_div_cancel' (Nat.dvd_of_mod_eq_zero h)]; omega
  rw [chunkCount, hL, Nat.add_mul_div_left _ _ (Nat.pos_of_ne_zero hk), Nat.div_eq_of_lt (by omega), Nat.zero_add]

/-- The marker is not 0: one short chunk follows the full ones (R252). -/
theorem chunkCount_of_mod_ne_zero (hk : k ≠ 0) (h : L % k ≠ 0) : chunkCount L k = L / k + 1 := by
  have hlt := Nat.mod_lt L (Nat.pos_of_ne_zero hk)
  have hdiv := Nat.div_add_mod L k
  have hL : L + k - 1 = (L % k - 1) + k * (L / k + 1) := by rw [Nat.mul_add]; omega
  rw [chunkCount, hL, Nat.add_mul_div_left _ _ (Nat.pos_of_ne_zero hk), Nat.div_eq_of_lt (by omega), Nat.zero_add]

/-- The block count and the marker of a payload give its length back (R209). -/
theorem decodedLength_chunkCount (hk : k ≠ 0) : decodedLength (chunkCount L k) (L % k) k = L := by
  unfold decodedLength
  split
  · next h => rw [chunkCount_of_mod_eq_zero hk h, Nat.div_mul_cancel (Nat.dvd_of_mod_eq_zero h)]
  · next h => rw [chunkCount_of_mod_ne_zero hk h, Nat.add_sub_cancel, Nat.div_add_mod']

/-- The block count and the marker of a payload pass the checks of DLEN, where its length fits in a register (R209). -/
theorem not_malformedCounts_chunkCount {W : Nat} (hk : k ≠ 0) (hL : L < 2 ^ W) :
    ¬ MalformedCounts W (chunkCount L k) (L % k) k := by
  rw [not_malformedCounts_iff, decodedLength_chunkCount hk]
  refine ⟨Nat.mod_lt L (Nat.pos_of_ne_zero hk), (eq_or_ne _ _).imp_right fun h => ?_, hL⟩
  rw [chunkCount_of_mod_ne_zero hk h]
  exact Nat.succ_ne_zero _

/-- A chunk with `k` bytes from its start on is full. -/
theorem chunkLength_of_lt_div {j : Nat} (hj : j < L / k) : chunkLength L k j = k := by
  have hend : (j + 1) * k ≤ L := (Nat.mul_le_mul_right k hj).trans (Nat.div_mul_le_self L k)
  rw [Nat.add_mul, Nat.one_mul] at hend
  exact Nat.min_eq_left (by omega)

/-- The chunk after the full ones has as many bytes as the marker says (R206). -/
theorem chunkLength_div (hk : k ≠ 0) : chunkLength L k (L / k) = L % k := by
  rw [chunkLength, ← Nat.mod_eq_sub_div_mul]
  exact Nat.min_eq_right (Nat.mod_lt L (Nat.pos_of_ne_zero hk)).le

/-- Every chunk is full but a short last one (R209). -/
theorem chunkLength_eq (hk : k ≠ 0) {j : Nat} (hj : j < chunkCount L k) :
    chunkLength L k j = if j + 1 = chunkCount L k ∧ L % k ≠ 0 then L % k else k := by
  by_cases h : L % k = 0
  · rw [chunkCount_of_mod_eq_zero hk h] at hj
    rw [if_neg (fun hlast => hlast.2 h), chunkLength_of_lt_div hj]
  · rw [chunkCount_of_mod_ne_zero hk h] at hj ⊢
    obtain hfull | rfl := Nat.lt_succ_iff_lt_or_eq.mp hj
    · rw [if_neg (by omega), chunkLength_of_lt_div hfull]
    · rw [if_pos ⟨rfl, h⟩, chunkLength_div hk]

end

/-- Settles O54: the counts that DLEN reads are those of the payload, and pass its checks. -/
theorem dlenInvertsMarker : Obligations.DlenInvertsMarker := by
  intro d x y a b s t hyb hxy hxb hk hL hmarker
  refine ⟨?length, fun j hj => chunkLength_eq hk hj⟩
  obtain ⟨-, markers⟩ := markerGivesTheTrailingLength
  obtain ⟨t', ht', -, hmarked⟩ := markers y a b s
  obtain rfl : t = t' := Host.Outcome.next.inj (hmarker.symm.trans ht')
  obtain ⟨hy, hregs, -, -, -, hdone⟩ := hmarked hk
  have hb : t.reg b = s.reg b := hregs b (by simpa using hyb.symm)
  generalize hv : t.setReg x (chunkCount (s.reg a) (s.reg b)) = v
  have hm : v.reg x = chunkCount (s.reg a) (s.reg b) := by rw [← hv, State.reg_setReg, if_pos rfl]
  have hr : v.reg y = s.reg a % s.reg b := by rw [← hv, State.reg_setReg, if_neg hxy.symm, hy]
  have hk' : v.reg b = s.reg b := by rw [← hv, State.reg_setReg, if_neg hxb.symm, hb]
  have hconfig : v.config = s.config := by rw [← hv, State.setReg_config, hdone.config]
  have hpass : ¬ MalformedCounts v.config.width (v.reg x) (v.reg y) (v.reg b) := by
    rw [hm, hr, hk', hconfig]
    exact not_malformedCounts_chunkCount hk hL
  obtain ⟨u, hu, hd, -, -, -, -, hcompleted⟩ := complete_setReg (exec_dlen_of_not_malformed d (hk'.symm ▸ hk) hpass)
  rw [hm, hr, hk', decodedLength_chunkCount hk] at hd
  exact ⟨u, hu, hd, hcompleted⟩

end Sys2Proof.Machine
end

section
/-! SUPPORT. The two ends of a command that reduces modulo a register, and with them modular multiplication and exponentiation
(R230 to R235). -/

namespace Sys2Proof.Machine

/-- A command that writes one register and Z unless its modulus is 0: the fault MOD_ZERO, or what `complete_setReg` says. -/
theorem modZero_or_complete_setReg {d c : Reg} {v : Nat} {s : State} {x : Host.Outcome State Fault Refusal}
    (h : x = if s.reg c = 0 then raiseFault .modZero s else complete ((s.setReg d v).setFlags (s.flags.withZ v))) :
    ∃ t, x = .next t ∧ (s.reg c = 0 → Faulted .modZero s t) ∧
      (s.reg c ≠ 0 → t.reg d = v ∧ RegsKeptExcept [d] s t ∧ BufKept s t ∧ t.flags = { s.flags with z := decide (v = 0) } ∧
        t.draws = s.draws ∧ Completed s t) := by
  by_cases hc : s.reg c = 0
  · exact ⟨_, h.trans (if_pos hc), fun _ => faulted_finish .modZero s, fun hne => absurd hc hne⟩
  · obtain ⟨t, ht, hspec⟩ := complete_setReg (h.trans (if_neg hc))
    exact ⟨t, ht, fun h0 => absurd h0 hc, fun _ => hspec⟩

/-- Settles O52: the square-and-multiply loop gives the exact power, by `powMod_eq`. -/
theorem modexpGivesTheExactPower : Obligations.ModexpGivesTheExactPower := by
  refine ⟨rowDecodes .modexp, fun d a b c s => ?_⟩
  rw [← powMod_eq]
  exact modZero_or_complete_setReg (rfl : exec (.modexp d a b c) s = execModexp d a b c s)

/-- Settles O51: the product that is reduced is the one of the natural numbers. -/
theorem modmulReducesTheExactProduct : Obligations.ModmulReducesTheExactProduct :=
  ⟨rowDecodes .modmul, fun d a b c s =>
    modZero_or_complete_setReg (rfl : exec (.modmul d a b c) s = execModmul d a b c s)⟩

end Sys2Proof.Machine
end

section
/-! SUPPORT. The sequence codec and the two RSA functions as functions of lists (R252 to R257): the bytes of a block, the data
blocks of a payload chunk by chunk, and that decoding and decrypting give the payload back. -/

namespace Sys2Proof.Machine

/-! ### The bytes of a block -/

@[simp] theorem valueBytes_length (v n : Nat) : (valueBytes v n).length = n := by
  induction n generalizing v with
  | zero => rfl
  | succ n ih => rw [valueBytes, List.length_cons, ih]

theorem bytesValue_lt (bytes : List Byte) : bytesValue bytes < 256 ^ bytes.length := by
  induction bytes with
  | nil => exact Nat.one_pos
  | cons b rest ih =>
    have hb := b.isLt
    rw [bytesValue, List.length_cons, Nat.pow_succ]
    omega

/-- The digits of the value of a run of bytes are the bytes (R253). -/
theorem valueBytes_bytesValue (bytes : List Byte) : valueBytes (bytesValue bytes) bytes.length = bytes := by
  induction bytes with
  | nil => rfl
  | cons b rest ih =>
    have hb := b.isLt
    have hlow : (b.toNat + 256 * bytesValue rest) % 256 = b.toNat := by omega
    have hhigh : (b.toNat + 256 * bytesValue rest) / 256 = bytesValue rest := by omega
    rw [bytesValue, List.length_cons, valueBytes, hlow, hhigh, ih, BitVec.ofNat_toNat, BitVec.setWidth_eq]

/-! ### The data blocks of a payload -/

/-- The chunk values of a payload, without the marker (R252). -/
def dataBlocks (bytes : List Byte) (k : Nat) : List Nat :=
  (List.range (chunkCount bytes.length k)).map fun j =>
    bytesValue ((bytes.drop (j * k)).take (chunkLength bytes.length k j))

theorem encodeBlocks_eq (bytes : List Byte) (k : Nat) :
    encodeBlocks bytes k = dataBlocks bytes k ++ [bytes.length % k] := rfl

@[simp] theorem dataBlocks_length (bytes : List Byte) (k : Nat) :
    (dataBlocks bytes k).length = chunkCount bytes.length k := by
  simp [dataBlocks]

section
variable {k : Nat}

theorem chunkCount_zero (hk : k ≠ 0) : chunkCount 0 k = 0 := by
  rw [chunkCount_of_mod_eq_zero hk (Nat.zero_mod k), Nat.zero_div]

/-- The first chunk is one, whether it is full or short. -/
theorem chunkCount_sub (hk : k ≠ 0) {L : Nat} (hL : L ≠ 0) : chunkCount L k = chunkCount (L - k) k + 1 := by
  have hfirst : L + k - 1 = L - 1 + k := by omega
  rw [chunkCount, hfirst, Nat.add_div_right _ (Nat.pos_of_ne_zero hk)]
  obtain hle | hlt := le_or_gt k L
  · rw [chunkCount, Nat.sub_add_cancel hle]
  · rw [Nat.sub_eq_zero_of_le hlt.le, chunkCount_zero hk, Nat.div_eq_of_lt (by omega)]

/-- The chunks after the first are those of the rest of the payload. -/
theorem chunkLength_succ (L j : Nat) : chunkLength L k (j + 1) = chunkLength (L - k) k j := by
  rw [chunkLength, chunkLength, Nat.add_mul, Nat.one_mul, Nat.add_comm (j * k), Nat.sub_sub]

theorem dataBlocks_nil (hk : k ≠ 0) : dataBlocks [] k = [] := by
  rw [← List.length_eq_zero_iff, dataBlocks_length, List.length_nil, chunkCount_zero hk]

/-- The first data block is that of the first `k` bytes, or of all bytes where there are fewer. -/
theorem dataBlocks_of_ne_nil (hk : k ≠ 0) {bytes : List Byte} (h : bytes ≠ []) :
    dataBlocks bytes k = bytesValue (bytes.take k) :: dataBlocks (bytes.drop k) k := by
  have hL : bytes.length ≠ 0 := mt List.length_eq_zero_iff.mp h
  have hfirst : bytes.take (chunkLength bytes.length k 0) = bytes.take k := by
    rw [chunkLength, Nat.zero_mul, Nat.sub_zero, ← List.take_eq_take_min]
  rw [dataBlocks, chunkCount_sub hk hL, List.range_succ_eq_map, List.map_cons, List.map_map, Nat.zero_mul, List.drop_zero,
    hfirst, dataBlocks, List.length_drop]
  refine congrArg _ (List.map_congr_left fun j _ => ?_)
  rw [Function.comp_apply, chunkLength_succ, List.drop_drop, Nat.succ_mul, Nat.add_comm k]

/-- A property of every payload, chunk by chunk (R252). -/
theorem chunkInduction (hk : k ≠ 0) {P : List Byte → Prop} (hnil : P [])
    (hchunk : ∀ bytes, bytes ≠ [] → P (bytes.drop k) → P bytes) (bytes : List Byte) : P bytes := by
  induction hn : bytes.length using Nat.strong_induction_on generalizing bytes with
  | _ n ih =>
    by_cases h : bytes = []
    · exact h ▸ hnil
    · have hpos := List.length_pos_iff.mpr h
      exact hchunk bytes h (ih _ (by rw [List.length_drop]; omega) _ rfl)

/-- A block is below the modulus: its chunk has at most `k` bytes, and `256**k` is at most the modulus (R200). -/
theorem dataBlocks_lt (hk : k ≠ 0) {n : Nat} (hn : 256 ^ k ≤ n) (bytes : List Byte) : ∀ b ∈ dataBlocks bytes k, b < n := by
  induction bytes using chunkInduction hk with
  | hnil => simp [dataBlocks_nil hk]
  | hchunk bytes h ih =>
    rw [dataBlocks_of_ne_nil hk h]
    refine List.forall_mem_cons.mpr ⟨?_, ih⟩
    calc bytesValue (bytes.take k) < 256 ^ (bytes.take k).length := bytesValue_lt _
      _ ≤ 256 ^ k := Nat.pow_le_pow_right (by decide) (List.length_take_le k bytes)
      _ ≤ n := hn

end

/-- The marker is below the modulus too. -/
theorem encodeBlocks_lt {k n : Nat} (hk : k ≠ 0) (hn : 256 ^ k ≤ n) (bytes : List Byte) :
    ∀ b ∈ encodeBlocks bytes k, b < n := by
  have hmarker : bytes.length % k < n :=
    calc bytes.length % k < k := Nat.mod_lt _ (Nat.pos_of_ne_zero hk)
      _ < 256 ^ k := Nat.lt_pow_self (by decide)
      _ ≤ n := hn
  rw [encodeBlocks_eq]
  simpa [or_imp, forall_and] using And.intro (dataBlocks_lt hk hn bytes) hmarker

/-! ### The bytes of a sequence of blocks -/

/-- The bytes of data blocks `j` and up of a payload of `L` bytes (R253). -/
def blocksBytes (L k j : Nat) : List Nat → List Byte
  | [] => []
  | b :: rest => valueBytes b (chunkLength L k j) ++ blocksBytes L k (j + 1) rest

theorem blocksBytes_eq_flatten (L k j : Nat) (blocks : List Nat) :
    blocksBytes L k j blocks = (blocks.mapIdx fun i b => valueBytes b (chunkLength L k (j + i))).flatten := by
  induction blocks generalizing j with
  | nil => rfl
  | cons b rest ih =>
    rw [blocksBytes, ih, List.mapIdx_cons, List.flatten_cons]
    simp only [Nat.add_zero, Nat.add_right_comm j 1, Nat.add_assoc]

/-- The checks that a decode makes of its counts: a block size of 0, or counts that no payload has (R253). -/
def Undecodable (m r k : Nat) : Prop := k = 0 ∨ k ≤ r ∨ (r ≠ 0 ∧ m = 0)

theorem decodeBlocks_undecodable {data : List Nat} {r k : Nat} (h : Undecodable data.length r k) :
    decodeBlocks (data ++ [r]) k = .error .malformedBlocks := by
  rw [decodeBlocks, List.getLast?_concat, List.dropLast_concat]
  exact if_pos h

theorem decodeBlocks_decodable {data : List Nat} {r k : Nat} (h : ¬ Undecodable data.length r k) :
    decodeBlocks (data ++ [r]) k = .ok (blocksBytes (decodedLength data.length r k) k 0 data) := by
  rw [decodeBlocks, List.getLast?_concat, List.dropLast_concat, blocksBytes_eq_flatten]
  simp only [Nat.zero_add]
  exact if_neg h

/-- The bytes of the blocks of a payload are the payload, from any chunk on. -/
theorem blocksBytes_dataBlocks {k : Nat} (hk : k ≠ 0) (bytes : List Byte) (j : Nat) :
    blocksBytes (j * k + bytes.length) k j (dataBlocks bytes k) = bytes := by
  induction bytes using chunkInduction hk generalizing j with
  | hnil => rw [dataBlocks_nil hk, blocksBytes]
  | hchunk bytes h ih =>
    have hlen : chunkLength (j * k + bytes.length) k j = (bytes.take k).length := by
      rw [chunkLength, Nat.add_sub_cancel_left, List.length_take]
    rw [dataBlocks_of_ne_nil hk h, blocksBytes, hlen, valueBytes_bytesValue]
    obtain hle | hlt := le_or_gt k bytes.length
    · have hrest : j * k + bytes.length = (j + 1) * k + (bytes.drop k).length := by
        rw [List.length_drop, Nat.add_mul]
        omega
      rw [hrest, ih, List.take_append_drop]
    · rw [List.drop_of_length_le hlt.le, dataBlocks_nil hk, blocksBytes, List.append_nil, List.take_of_length_le hlt.le]

/-- Settles O55: the counts of the encoded payload pass the checks and give its length, and its blocks give its bytes. -/
theorem decodeInvertsEncode : Obligations.DecodeInvertsEncode := by
  intro bytes k hk
  have hk : k ≠ 0 := Nat.ne_of_gt hk
  have hdecodable : ¬ Undecodable (dataBlocks bytes k).length (bytes.length % k) k := by
    have hlength : bytes.length < 2 ^ bytes.length := Nat.lt_two_pow_self
    obtain ⟨hmarker, hcount, -⟩ := not_malformedCounts_iff.mp (not_malformedCounts_chunkCount hk hlength)
    rw [dataBlocks_length, Undecodable]
    omega
  rw [encodeBlocks_eq, decodeBlocks_decodable hdecodable, dataBlocks_length, decodedLength_chunkCount hk]
  exact congrArg Except.ok (by simpa using blocksBytes_dataBlocks hk bytes 0)

/-! ### Encrypt and decrypt -/

/-- A modulus of at least 256 has a block size of at least 1, and no smaller one has (R255). -/
theorem blockSize_eq_zero_iff {n : Nat} : blockSize n = 0 ↔ n < 256 := by
  by_cases hn : n = 0
  · simp [hn, blockSize, bitlen]
  · obtain ⟨hlow, hhigh⟩ := blockSize_bounds hn
    refine ⟨fun h => by simpa [h] using hhigh, fun hlt => ?_⟩
    exact Nat.lt_one_iff.mp ((Nat.pow_lt_pow_iff_right (a := 256) (by decide)).mp (hlow.trans_lt hlt))

/-- Fermat's little theorem for an exponent that is 1 modulo `p - 1`, with the multiples of `p` included. -/
theorem pow_modEq_self {p : Nat} (hp : p.Prime) (x t : Nat) : x ^ ((p - 1) * t + 1) ≡ x [MOD p] := by
  have := Fact.mk hp
  refine (ZMod.natCast_eq_natCast_iff _ _ p).mp ?_
  rw [Nat.cast_pow]
  obtain hx | hx := eq_or_ne (x : ZMod p) 0
  · rw [hx, zero_pow (Nat.succ_ne_zero _)]
  · rw [pow_succ, pow_mul, ZMod.pow_card_sub_one_eq_one hx, one_pow, one_mul]

section
variable {p q m : Nat}

/-- An exponent that is 1 modulo `(p-1)(q-1)` fixes every number modulo `p * q` (R257). -/
theorem pow_modEq_self_mul (hp : p.Prime) (hq : q.Prime) (hpq : p ≠ q)
    (hm : m % ((p - 1) * (q - 1)) = 1 % ((p - 1) * (q - 1))) (x : Nat) : x ^ m ≡ x [MOD p * q] := by
  have hphi : 1 < (p - 1) * (q - 1) := by
    have := hp.two_le
    have := hq.two_le
    obtain h | h : 2 ≤ p - 1 ∨ 2 ≤ q - 1 := by omega
    · exact Nat.lt_of_lt_of_le h (Nat.le_mul_of_pos_right _ (by omega))
    · exact Nat.lt_of_lt_of_le h (Nat.le_mul_of_pos_left _ (by omega))
  obtain ⟨t, rfl⟩ : ∃ t, m = (p - 1) * (q - 1) * t + 1 :=
    ⟨_, by rw [← Nat.div_add_mod m ((p - 1) * (q - 1)), hm, Nat.mod_eq_of_lt hphi]⟩
  refine (Nat.modEq_and_modEq_iff_modEq_mul ((Nat.coprime_primes hp hq).mpr hpq)).mp ⟨?_, ?_⟩
  · rw [Nat.mul_assoc]
    exact pow_modEq_self hp x _
  · rw [Nat.mul_comm (p - 1), Nat.mul_assoc]
    exact pow_modEq_self hq x _

end

/-- Settles O56: each element is below the modulus, so the two powers give it back, and the decode is that of an encoded payload.
With a modulus below 256 the block size is 0. -/
theorem decryptInvertsEncrypt : Obligations.DecryptInvertsEncrypt := by
  intro bytes p q e d hp hq hpq hed
  refine ⟨fun hn => ?_, fun hn => ?_⟩
  · have hk : blockSize (p * q) ≠ 0 := mt blockSize_eq_zero_iff.mp hn.not_gt
    obtain ⟨hbound, -⟩ := blockSize_bounds (n := p * q) (by omega)
    have hblocks := encodeBlocks_lt hk hbound bytes
    have hpowers : ((encodeBlocks bytes (blockSize (p * q))).map (fun b => b ^ e % (p * q))).map
        (fun c => c ^ d % (p * q)) = encodeBlocks bytes (blockSize (p * q)) := by
      rw [List.map_map]
      refine (List.map_congr_left fun b hb => ?_).trans (List.map_id _)
      rw [Function.comp_apply, ← Nat.pow_mod, ← Nat.pow_mul]
      exact Eq.trans (pow_modEq_self_mul hp hq hpq hed b) (Nat.mod_eq_of_lt (hblocks b hb))
    refine ⟨_, if_neg hk, by simp [encodeBlocks_eq], ?_, ?_⟩
    · simpa using fun b _ => Nat.mod_lt (b ^ e) (by omega)
    · rw [decryptBlocks, if_neg (fun h => hk h.1), hpowers]
      exact decodeInvertsEncode bytes _ (Nat.pos_of_ne_zero hk)
  · have hk : blockSize (p * q) = 0 := blockSize_eq_zero_iff.mpr hn
    exact ⟨if_pos hk, fun values hvalues => if_pos ⟨hk, hvalues⟩⟩

end Sys2Proof.Machine
end

section
/-! SUPPORT. What a host action gives and leaves on an idle engine (R104, R316): accesses of the window, commands, and the moves
of whole registers. A procedure's proof chains these rules and does not unfold the actions. -/

namespace Sys2Proof.Machine

/-! ### Procedures that end without error -/

/-- The procedure ends without error, and its result satisfies `P`. -/
def Returns {α : Type} (x : Except ProcError α) (P : α → Prop) : Prop := ∃ a, x = .ok a ∧ P a

section
variable {α β : Type} {x : Except ProcError α} {P : α → Prop} {f : α → Except ProcError β}

theorem returns_ok {a : α} (h : P a) : Returns (.ok a) P := ⟨a, rfl, h⟩

theorem Returns.mono {Q : α → Prop} (h : Returns x P) (hQ : ∀ a, P a → Q a) : Returns x Q := by
  obtain ⟨a, hx, ha⟩ := h
  exact ⟨a, hx, hQ a ha⟩

/-- An action that ends without error is followed by the rest of the procedure. -/
theorem Returns.bind {Q : β → Prop} (h : Returns x P) (hf : ∀ a, P a → Returns (f a) Q) : Returns (x >>= f) Q := by
  obtain ⟨a, rfl, ha⟩ := h
  exact hf a ha

theorem Returns.bind_error {e : ProcError} (h : Returns x P) (hf : ∀ a, P a → f a = .error e) : x >>= f = .error e := by
  obtain ⟨a, rfl, ha⟩ := h
  exact hf a ha

/-- A procedure that ended without error went on from the result of its first action. -/
theorem Returns.of_bind_ok {b : β} (h : Returns x P) (hf : x >>= f = .ok b) : ∃ a, P a ∧ f a = .ok b := by
  obtain ⟨a, rfl, ha⟩ := h
  exact ⟨a, ha, hf⟩

end

theorem bind_error {α β : Type} {x : Except ProcError α} {e : ProcError} (h : x = .error e) (f : α → Except ProcError β) :
    x >>= f = .error e := by
  rw [h]
  rfl

/-! ### Idle engines -/

/-- An idle engine in its invariant, as every action of the procedures finds it. -/
structure Ready (s : State) : Prop where
  inv : Inv s
  idle : s.phase = .idle

/-- `t` is an idle engine with what a command reads of `u`: the parameters, the registers, BUF and FLAGS (R280). -/
structure ReadyAs (u t : State) : Prop extends Ready t where
  config : t.config = u.config
  reg : ∀ r, t.reg r = u.reg r
  buf : t.buf = u.buf
  flags : t.flags = u.flags

theorem Ready.readyAs {s : State} (h : Ready s) : ReadyAs s s := ⟨h, rfl, fun _ => rfl, rfl, rfl⟩

theorem ReadyAs.trans {s t u : State} (h : ReadyAs s t) (h' : ReadyAs t u) : ReadyAs s u where
  toReady := h'.toReady
  config := h'.config.trans h.config
  reg r := (h'.reg r).trans (h.reg r)
  buf := h'.buf.trans h.buf
  flags := h'.flags.trans h.flags

theorem ReadyAs.width {u t : State} (h : ReadyAs u t) : t.width = u.width := congrArg Config.width h.config

/-- The invariant looks at neither the schedule nor the free values of reads nor the answer of the bus. -/
theorem Ready.afterAccess {s : State} (h : Ready s) (moves : List Move) (reads : FreeStream) (resp : Option BusResponse) :
    ReadyAs s { s with schedule := moves, busyReads := reads, response := resp } :=
  ⟨⟨{ h.inv with }, h.idle⟩, rfl, fun _ => rfl, rfl, rfl⟩

theorem Ready.legal {s : State} (h : Ready s) : s.config.Legal := h.inv.legal

/-! ### Accesses -/

/-- The state in which the host's next access is performed: the one move scheduled is spent. -/
def State.spent (s : State) : State := { s with schedule := [] }

theorem Ready.spent {s : State} (h : Ready s) : ReadyAs s s.spent := h.afterAccess [] s.busyReads s.response

section
variable {s : State} {width : Width} {offset : Nat}

theorem perform_of_move (h : s.config.Legal) {m : Move} {t : State} (hmove : move { s with schedule := [m] } = .next t) :
    perform m s = .ok t :=
  perform_ok.mpr ((step_eq_move (s := { s with schedule := [m] }) h).trans hmove)

theorem perform_read (h : s.config.Legal) (ho : offset < 0x10000) :
    perform (.read width (s.config.base + offset)) s = .ok (s.spent.hostRead width offset) :=
  perform_of_move h ((move_read rfl).trans (busRead_base_add (s := s.spent) width ho))

theorem perform_write (h : s.config.Legal) (ho : offset < 0x10000) (lanes : Word) :
    perform (.write width (s.config.base + offset) lanes) s = .ok (s.spent.hostWrite width offset lanes) :=
  perform_of_move h ((move_write rfl).trans (busWrite_base_add (s := s.spent) width lanes ho))

theorem inv_hostWrite (h : Inv s) (width : Width) (offset : Nat) (lanes : Word) : Inv (s.hostWrite width offset lanes) :=
  (keeps_hostWrite s width offset lanes).inv h

/-- A store of the procedures is the host write of its value on the access's lanes. -/
theorem hostStore_eq (h : s.config.Legal) (ho : offset < 0x10000) (hlegal : accessLegal width offset = true) (v : Word) :
    hostStore width offset v s = .ok (s.spent.hostWrite width offset (laneWord offset v)) :=
  hostStore_ok.mpr ⟨perform_write h ho _, by rw [State.hostWrite, if_pos hlegal]; rfl⟩

/-- `t` is `s` after reads of the host, which leave their answer, the free values taken and no move scheduled (R74). -/
def AfterReads (s t : State) : Prop := ∃ reads resp, t = { s with schedule := [], busyReads := reads, response := resp }

theorem AfterReads.readyAs {t : State} (h : AfterReads s t) (hs : Ready s) : ReadyAs s t := by
  obtain ⟨reads, resp, rfl⟩ := h
  exact hs.afterAccess [] reads resp

/-- A load of the procedures gives the value of its lanes on the data bus of the read. -/
theorem hostLoad_returns {lanes : Word} (h : s.config.Legal) (ho : offset < 0x10000)
    (hdata : (s.spent.hostRead width offset).response = some (.data lanes)) :
    Returns (hostLoad width offset s) fun r => r.1 = laneValue width offset lanes ∧ AfterReads s r.2 :=
  ⟨_, hostLoad_ok.mpr ⟨perform_read h ho, lanes, hdata, rfl⟩, rfl, hostRead_frame s.spent width offset⟩

end

/-- A load of a control register gives the word it reads as; FLAGS only while idle. -/
theorem hostLoad_control {s : State} {offset : Nat} (h : Ready s) {r : CtrlReg} (hlegal : accessLegal .word offset = true)
    (ho : offset < 0x10000) (hoffset : offset % 4 = 0) (hregion : regionOf offset = .control r) :
    Returns (hostLoad .word offset s) fun x => x.1 = s.ctrlRead r ∧ AfterReads s x.2 := by
  have hdata := hostRead_control hlegal hregion fun _ => h.spent.idle
  refine (hostLoad_returns h.legal ho hdata).mono fun x ⟨hvalue, hreads⟩ => ⟨?_, hreads⟩
  rw [hvalue, laneValue_word _ hoffset]
  cases r <;> rfl

theorem laneWord_aligned {offset : Nat} (h : offset % 4 = 0) (v : Word) : laneWord offset v = v := by
  simp [laneWord, h]

/-! ### Commands -/

/-- The state in which the engine completes the command `i` that the host has written to CMD (R280). -/
def State.issued (s : State) (i : Instr) : State :=
  { s.accept (encode i) with schedule := [], response := some .written }

@[simp] theorem State.reg_issued (s : State) (i : Instr) (r : Reg) : (s.issued i).reg r = s.reg r := rfl

theorem hostStore_cmd {s : State} (h : Ready s) (i : Instr) : hostStore .word 0x00C (encode i) s = .ok (s.issued i) := by
  rw [hostStore_eq h.legal (by decide) (by decide), laneWord_aligned (by decide),
    hostWrite_control _ _ (r := .cmd) (by decide) (by decide), State.ctrlWrite, State.writeCmd,
    s.spent.idle_iff.mpr h.spent.idle]
  rfl

/-- The engine's move on an issued command is the command. -/
theorem perform_engine_issued {s t : State} (h : s.config.Legal) {i : Instr} (hexec : exec i (s.issued i) = .next t) :
    perform .engine (s.issued i) = .ok t := by
  refine perform_ok.mpr ?_
  rw [step_exec_engine (s := { s.issued i with schedule := [.engine] }) h rfl rfl]
  exact (completeLatched_command (s := s.issued i) (decode_encode i)).trans hexec

/-- A command leaves an engine in the invariant idle (R282). -/
theorem ready_exec {i : Instr} {s t : State} (h : Ready s) (hexec : exec i (s.issued i) = .next t) : Ready t := by
  refine ⟨(keeps_exec hexec).inv { h.inv.accept (encode i) with }, ?_⟩
  obtain ⟨u, -, rfl⟩ | ⟨code, -, rfl⟩ := exec_next_cases hexec <;> rfl

/-- The two bits of STATUS that the host looks at (R29). -/
theorem statusWord_bits (s : State) : s.statusWord.getLsbD 0 = s.busy ∧ s.statusWord.getLsbD 2 = s.err := by
  have bits : ∀ busy done err ovr : Bool,
      (BitVec.ofNat 32 (busy.toNat + 2 * done.toNat + 4 * err.toNat + 8 * ovr.toNat)).getLsbD 0 = busy ∧
      (BitVec.ofNat 32 (busy.toNat + 2 * done.toNat + 4 * err.toNat + 8 * ovr.toNat)).getLsbD 2 = err := by decide
  exact bits _ _ _ _

/-- The record that the host reads after a command: none, or ERRCODE and ERRCMD (R316). -/
def State.faultRecord (s : State) : Option FaultRecord :=
  if s.err then some { code := s.errcode.setWidth 32, command := s.errcmd } else none

theorem hostOutcome_returns {s : State} (h : Ready s) :
    Returns (hostOutcome s) fun r => r.1 = s.faultRecord ∧ ReadyAs s r.2 := by
  obtain ⟨hbusy, herr⟩ := statusWord_bits s
  rw [s.idle_iff.mpr h.idle] at hbusy
  rw [hostOutcome, State.faultRecord]
  refine (hostLoad_control h (r := .status) (by decide) (by decide) (by decide) (by decide)).bind fun (status, t) hstatus => ?_
  obtain ⟨rfl, ht⟩ : status = s.statusWord ∧ AfterReads s t := hstatus
  have hst := ht.readyAs h
  simp only [hbusy, herr, Bool.false_eq_true, if_false]
  split
  · refine (hostLoad_control hst.toReady (r := .errcode) (by decide) (by decide) (by decide) (by decide)).bind
      fun (code, u) hcode => ?_
    obtain ⟨rfl, hu⟩ : code = t.errcodeWord ∧ AfterReads t u := hcode
    have htu := hu.readyAs hst.toReady
    refine (hostLoad_control htu.toReady (r := .errcmd) (by decide) (by decide) (by decide) (by decide)).bind
      fun (command, v) hcommand => ?_
    obtain ⟨rfl, hv⟩ : command = u.errcmd ∧ AfterReads u v := hcommand
    refine returns_ok ⟨?_, (hst.trans htu).trans (hv.readyAs htu.toReady)⟩
    obtain ⟨_, _, rfl⟩ := ht
    obtain ⟨_, _, rfl⟩ := hu
    rw [errcodeWord_eq]
  · exact returns_ok ⟨rfl, hst⟩

/-- The protocol runs the command, and answers the record of its fault (R316). -/
theorem hostCommand_returns {i : Instr} {s u : State} (h : Ready s) (hexec : exec i (s.issued i) = .next u) :
    Returns (hostCommand (.poll 0) (encode i) s) fun r => r.1 = u.faultRecord ∧ ReadyAs u r.2 := by
  rw [hostCommand, hostStore_cmd h]
  change Returns (perform .engine (s.issued i) >>= hostOutcome) _
  rw [perform_engine_issued h.legal hexec]
  exact hostOutcome_returns (ready_exec h hexec)

/-- A command of a procedure that completes leaves what it has written. -/
theorem hostCmd_returns {i : Instr} {s u : State} (h : Ready s) (hexec : exec i (s.issued i) = .next u)
    (herr : u.err = false) : Returns (hostCmd i s) (ReadyAs u) := by
  rw [hostCmd]
  refine (hostCommand_returns h hexec).bind fun (record, t) hrecord => ?_
  obtain ⟨rfl, ht⟩ : record = u.faultRecord ∧ ReadyAs u t := hrecord
  rw [State.faultRecord, herr]
  exact returns_ok ht

/-- A command that writes one register and the flags. -/
theorem hostCmd_setReg {i : Instr} {s : State} {d : Reg} {v : Nat} {f : Flags} (h : Ready s)
    (hexec : exec i (s.issued i) = complete (((s.issued i).setReg d v).setFlags f)) :
    Returns (hostCmd i s) (ReadyAs ((s.setReg d v).setFlags f)) :=
  (hostCmd_returns h hexec rfl).mono fun _ ht => { ht with reg := ht.reg }

/-- A command of a procedure that faults stops the procedure with its record (R251). -/
theorem hostCmd_fault {i : Instr} {s : State} {code : FaultCode} (h : Ready s)
    (hexec : exec i (s.issued i) = raiseFault code (s.issued i)) :
    hostCmd i s = .error (.commandFault { code := code.byte.setWidth 32, command := encode i }) := by
  rw [hostCmd]
  refine (hostCommand_returns h hexec).bind_error fun (record, t) hrecord => ?_
  obtain ⟨rfl, -⟩ := hrecord
  rfl

/-- The host reads each flag at its bit of FLAGS (R33). -/
theorem hostFlag_returns {s : State} (h : Ready s) (bit : Nat) :
    Returns (hostFlag bit s) fun r => r.1 = s.flags.toWord.getLsbD bit ∧ ReadyAs s r.2 := by
  rw [hostFlag]
  refine (hostLoad_control h (r := .flags) (by decide) (by decide) (by decide) (by decide)).bind fun (w, t) hw => ?_
  obtain ⟨rfl, ht⟩ : w = s.flags.toWord ∧ AfterReads s t := hw
  exact returns_ok ⟨rfl, ht.readyAs h⟩

/-! ### Registers -/

theorem Ready.word_lt {s : State} (h : Ready s) {n : Nat} (hn : n < s.width / 32) : n < 256 := by
  obtain ⟨⟨-, -, hwidth⟩, -, -⟩ := h.legal
  rw [State.width] at hn
  omega

theorem Ready.width_eq {s : State} (h : Ready s) : 32 * (s.width / 32) = s.width := by
  obtain ⟨⟨hmultiple, -, -⟩, -, -⟩ := h.legal
  rw [State.width]
  omega

theorem registerOffset_lt (r : Reg) {n : Nat} (hn : n < 256) : 0x4000 + 0x400 * r.val + 4 * n < 0x10000 := by
  have hr := r.isLt
  omega

theorem registerOffset_mod (r n : Nat) : (0x4000 + 0x400 * r + 4 * n) % 4 = 0 := by omega

/-- A store of one word of a register replaces the word (R63). -/
theorem hostStore_word_returns {s : State} (h : Ready s) (r : Reg) {n : Nat} (hn : n < s.width / 32) (w : Word) :
    Returns (hostStore .word (0x4000 + 0x400 * r.val + 4 * n) w s)
      (ReadyAs (s.setReg r (replaceWord (s.reg r) n w.toNat))) := by
  have h256 := h.word_lt hn
  refine ⟨_, hostStore_eq h.legal (registerOffset_lt r h256) (accessLegal_register r h256) w, ?_⟩
  have hinv := inv_hostWrite h.spent.inv .word (0x4000 + 0x400 * r.val + 4 * n) w
  rw [laneWord_aligned (registerOffset_mod r n)]
  rw [hostWrite_register h.spent.idle r h256, State.writeRegWord,
    if_pos (show n < s.spent.width / 32 from hn)] at hinv ⊢
  exact ⟨⟨hinv, h.idle⟩, rfl, fun _ => rfl, rfl, rfl⟩

/-- The words stored so far are those of the value, and the others are as before. -/
theorem hostStoreWords_returns {s : State} (h : Ready s) (r : Reg) (v : Nat) {n : Nat} (hn : n ≤ s.width / 32) :
    Returns (hostStoreWords r v n s) fun t => ReadyAs (s.setReg r (t.reg r)) t ∧
      ∀ i, (t.reg r).testBit i = if i < 32 * n then v.testBit i else (s.reg r).testBit i := by
  induction n with
  | zero => exact returns_ok ⟨⟨h, rfl, fun i => by rw [State.reg_setReg]; split <;> simp [*], rfl, rfl⟩, fun i => by simp⟩
  | succ n ih =>
    rw [hostStoreWords]
    refine (ih (Nat.le_of_succ_le hn)).bind fun t ⟨ht, hbits⟩ => ?_
    refine (hostStore_word_returns ht.toReady r (ht.width ▸ hn) _).mono fun u hu => ⟨?frame, fun i => ?bits⟩
    case frame =>
      refine ⟨hu.toReady, hu.config.trans ht.config, fun i => ?_, hu.buf.trans ht.buf, hu.flags.trans ht.flags⟩
      by_cases hi : i = r
      · rw [hi, State.reg_setReg, if_pos rfl]
      · rw [hu.reg, State.reg_setReg, if_neg hi, ht.reg, State.reg_setReg, if_neg hi, State.reg_setReg, if_neg hi]
    case bits =>
      rw [hu.reg, State.reg_setReg, if_pos rfl, testBit_replaceWord, hbits, BitVec.getLsbD_ofNat, wordOf,
        Nat.testBit_mod_two_pow, Nat.testBit_div_two_pow]
      by_cases hlow : i < 32 * n
      · rw [if_neg (by omega), if_pos hlow, if_pos (by omega)]
      · by_cases hword : i < 32 * n + 32
        · rw [if_pos (by omega), if_pos (by omega), Nat.sub_add_cancel (by omega), decide_eq_true (by omega),
            Bool.true_and, Bool.true_and]
        · rw [if_neg (by omega), if_neg hlow, if_neg (by omega)]

/-- A value of any size is stored modulo `2**W`: the host writes `W/32` words of it (R104). -/
theorem hostWriteReg_truncates {s : State} (h : Ready s) (r : Reg) (v : Nat) :
    Returns (hostWriteReg r v s) (ReadyAs (s.setReg r (v % 2 ^ s.width))) := by
  refine (hostStoreWords_returns h r v le_rfl).mono fun t ⟨ht, hbits⟩ => ?_
  have hvalue : t.reg r = v % 2 ^ s.width := by
    refine Nat.eq_of_testBit_eq fun i => ?_
    rw [hbits, h.width_eq, Nat.testBit_mod_two_pow]
    split
    · next hi => rw [decide_eq_true hi, Bool.true_and]
    · next hi =>
      have hpow : 2 ^ s.width ≤ 2 ^ i := Nat.pow_le_pow_right (by decide) (Nat.le_of_not_lt hi)
      rw [Nat.testBit_lt_two_pow ((h.inv.regs r).trans_le hpow), decide_eq_false hi, Bool.false_and]
  rwa [hvalue] at ht

theorem hostWriteReg_returns {s : State} (h : Ready s) (r : Reg) {v : Nat} (hv : v < 2 ^ s.width) :
    Returns (hostWriteReg r v s) (ReadyAs (s.setReg r v)) := by
  have hwrite := hostWriteReg_truncates h r v
  rwa [Nat.mod_eq_of_lt hv] at hwrite

/-- The words loaded so far are those of the register. -/
theorem hostLoadWords_returns {s : State} (h : Ready s) (r : Reg) {n : Nat} (hn : n ≤ s.width / 32) :
    Returns (hostLoadWords r n s) fun x => x.1 = s.reg r % 2 ^ (32 * n) ∧ ReadyAs s x.2 := by
  induction n with
  | zero => exact returns_ok ⟨by rw [Nat.mul_zero, Nat.pow_zero, Nat.mod_one], h.readyAs⟩
  | succ n ih =>
    rw [hostLoadWords]
    refine (ih (Nat.le_of_succ_le hn)).bind fun (low, t) hlow => ?_
    obtain ⟨rfl, ht⟩ : low = s.reg r % 2 ^ (32 * n) ∧ ReadyAs s t := hlow
    have h256 := h.word_lt hn
    refine (hostLoad_returns ht.legal (registerOffset_lt r h256) (hostRead_register ht.spent.idle r h256)).bind
      fun (w, u) hw => ?_
    obtain ⟨rfl, hu⟩ : w = laneValue .word _ (t.spent.readRegWord r n) ∧ AfterReads t u := hw
    refine returns_ok ⟨?_, ht.trans (hu.readyAs ht.toReady)⟩
    have hword : (t.spent.readRegWord r n).toNat = s.reg r / 2 ^ (32 * n) % 2 ^ 32 := by
      rw [State.readRegWord, if_pos (by rw [ht.spent.width, ht.width]; exact hn), ht.spent.reg, ht.reg]
      exact Nat.mod_mod _ _
    rw [laneValue_word _ (registerOffset_mod r n), hword, Nat.mul_succ, Nat.pow_add, Nat.mod_mul, Nat.mul_comm (2 ^ (32 * n))]

theorem hostReadReg_returns {s : State} (h : Ready s) (r : Reg) :
    Returns (hostReadReg r s) fun x => x.1 = s.reg r ∧ ReadyAs s x.2 := by
  refine (hostLoadWords_returns h r le_rfl).mono fun x ⟨hvalue, hx⟩ => ⟨?_, hx⟩
  rw [hvalue, h.width_eq, Nat.mod_eq_of_lt (h.inv.regs r)]

end Sys2Proof.Machine
end

section
/-! SUPPORT. Runs of bytes of BUF: what MemRead and MemWrite are of them (R12), and what the host's buffer actions give and leave
on an idle engine (R104). -/

namespace Sys2Proof.Machine

/-! ### Runs of bytes -/

/-- The `n` bytes of BUF from offset `o` on. -/
def Memory.bytes (m : Memory) (o : Nat) : Nat → List Byte
  | 0 => []
  | n + 1 => m.read o :: m.bytes (o + 1) n

@[simp] theorem Memory.bytes_length (m : Memory) (o n : Nat) : (m.bytes o n).length = n := by
  induction n generalizing o with
  | zero => rfl
  | succ n ih => rw [Memory.bytes, List.length_cons, ih]

theorem Memory.bytes_add (m : Memory) (o k n : Nat) : m.bytes o (k + n) = m.bytes o k ++ m.bytes (o + k) n := by
  induction k generalizing o with
  | zero => rw [Nat.zero_add, Memory.bytes, List.nil_append, Nat.add_zero]
  | succ k ih =>
    rw [Nat.succ_add, Memory.bytes, ih, Memory.bytes, List.cons_append, Nat.add_right_comm o 1 k, Nat.add_assoc o k 1]

/-- A chunk of a run of bytes is itself a run. -/
theorem Memory.take_drop_bytes (m : Memory) (o : Nat) {a b n : Nat} (h : a + b ≤ n) :
    ((m.bytes o n).drop a).take b = m.bytes (o + a) b := by
  obtain ⟨c, rfl⟩ := Nat.exists_eq_add_of_le h
  rw [Nat.add_assoc, Memory.bytes_add, List.drop_left' (m.bytes_length o a), Memory.bytes_add,
    List.take_left' (m.bytes_length _ b)]

theorem Memory.bytes_congr {m m' : Memory} {o n : Nat} (h : ∀ a, o ≤ a → a < o + n → m.read a = m'.read a) :
    m.bytes o n = m'.bytes o n := by
  induction n generalizing o with
  | zero => rfl
  | succ n ih =>
    rw [Memory.bytes, Memory.bytes, h o le_rfl (by omega), ih fun a ha hlt => h a (by omega) (by omega)]

theorem bytesValue_append (bytes rest : List Byte) :
    bytesValue (bytes ++ rest) = bytesValue bytes + 256 ^ bytes.length * bytesValue rest := by
  induction bytes with
  | nil => rw [List.nil_append, bytesValue, List.length_nil, Nat.pow_zero, Nat.one_mul, Nat.zero_add]
  | cons b bytes ih =>
    rw [List.cons_append, bytesValue, ih, bytesValue, List.length_cons, Nat.pow_succ]
    ring

/-- `MemRead` is the value of the run of bytes it reads (R12). -/
theorem memRead_eq_bytesValue (m : Memory) (o n : Nat) : memRead m o n = bytesValue (m.bytes o n) := by
  induction n with
  | zero => rfl
  | succ n ih =>
    rw [memRead, ih, Memory.bytes_add, bytesValue_append, Memory.bytes_length, Memory.bytes, Memory.bytes, bytesValue,
      bytesValue, Nat.mul_zero, Nat.add_zero, Nat.mul_comm]

/-- Bytes that are the digits of a value are its run of digits (R253). -/
theorem Memory.bytes_eq_valueBytes {m : Memory} {o n v : Nat}
    (h : ∀ i < n, m.read (o + i) = BitVec.ofNat 8 (v / 256 ^ i % 256)) : m.bytes o n = valueBytes v n := by
  induction n generalizing o v with
  | zero => rfl
  | succ n ih =>
    have hfirst : m.read o = BitVec.ofNat 8 (v % 256) := by simpa using h 0 (Nat.succ_pos n)
    rw [Memory.bytes, valueBytes, hfirst]
    refine congrArg _ (ih fun i hi => ?_)
    rw [Nat.add_assoc, Nat.add_comm 1, h (i + 1) (Nat.succ_lt_succ hi), Nat.pow_succ', Nat.div_div_eq_div_mul]

/-- `MemWrite` leaves the digits of its value (R12). -/
theorem memWrite_bytes {m : Memory} (hm : m.wf = true) (o v n : Nat) : (memWrite m o v n).bytes o n = valueBytes v n := by
  refine Memory.bytes_eq_valueBytes fun i hi => ?_
  rw [memWrite_read m o v n _ hm, if_pos (by omega), Nat.add_sub_cancel_left]

/-- `MemWrite` leaves the bytes before its offset. -/
theorem memWrite_bytes_below {m : Memory} (hm : m.wf = true) {o : Nat} (v n : Nat) {a c : Nat} (h : a + c ≤ o) :
    (memWrite m o v n).bytes a c = m.bytes a c := by
  refine Memory.bytes_congr fun i _ hi => ?_
  rw [memWrite_read m o v n _ hm, if_neg (by omega)]

/-! ### The host's buffer actions -/

theorem Ready.bufSize_le {s : State} (h : Ready s) : s.config.bufSize ≤ 0x8000 := by
  obtain ⟨-, ⟨-, -, hsize⟩, -⟩ := h.legal
  exact hsize

theorem accessLegal_byte (o : Nat) : accessLegal .byte (0x8000 + o) = true :=
  (accessLegal_iff _ _).mpr (.inr ⟨Nat.le_add_right _ _, Nat.mod_one _⟩)

/-- A store of one byte replaces the byte (R64). -/
theorem hostStore_byte_returns {s : State} (h : Ready s) {o : Nat} (ho : o < s.config.bufSize) (b : Byte) :
    Returns (hostStore .byte (0x8000 + o) (BitVec.ofNat 32 b.toNat) s) fun t => ReadyAs (s.setBuf t.buf) t ∧
      ∀ a, t.buf.read a = if a = o then b else s.buf.read a := by
  have hsize := h.bufSize_le
  refine ⟨_, hostStore_eq h.legal (by omega) (accessLegal_byte o) _, ?_⟩
  have hinv := inv_hostWrite h.spent.inv .byte (0x8000 + o) (laneWord (0x8000 + o) (BitVec.ofNat 32 b.toNat))
  have hvalue : (BitVec.ofNat 32 b.toNat).toNat = b.toNat := by
    have hb := b.isLt
    rw [BitVec.toNat_ofNat]
    omega
  refine ⟨?_, fun a => ?_⟩
  · rw [hostWrite_buffer h.spent.idle (accessLegal_byte o)] at hinv ⊢
    exact ⟨⟨hinv, h.idle⟩, rfl, fun _ => rfl, rfl, rfl⟩
  · rw [hostWrite_buffer_read h.spent.inv.bufCanonical h.spent.idle (accessLegal_byte o),
      laneValue_laneWord (accessLegal_byte o) (by rw [hvalue]; exact b.isLt), hvalue]
    by_cases ha : a = o
    · subst ha
      rw [if_pos ⟨le_rfl, Nat.lt_succ_self a, ho⟩, if_pos rfl, Nat.sub_self, Nat.pow_zero, Nat.div_one,
        Nat.mod_eq_of_lt b.isLt, BitVec.ofNat_toNat, BitVec.setWidth_eq]
    · rw [if_neg (by simp only [Width.bytes]; omega), if_neg ha]
      rfl

/-- A run of bytes that the host stores inside BUF is the run there, and the bytes before it are as they were. -/
theorem hostWriteBuf_returns {s : State} (h : Ready s) {o : Nat} {bytes : List Byte}
    (hfit : o + bytes.length ≤ s.config.bufSize) :
    Returns (hostWriteBuf o bytes s) fun t => ReadyAs (s.setBuf t.buf) t ∧ t.buf.bytes o bytes.length = bytes ∧
      ∀ a < o, t.buf.read a = s.buf.read a := by
  induction bytes generalizing o s with
  | nil => exact returns_ok ⟨h.readyAs, rfl, fun _ _ => rfl⟩
  | cons b rest ih =>
    rw [List.length_cons] at hfit ⊢
    rw [hostWriteBuf]
    refine (hostStore_byte_returns h (by omega) b).bind fun t ⟨ht, hread⟩ => ?_
    have hfit' : o + 1 + rest.length ≤ t.config.bufSize := by
      rw [ht.config, State.setBuf_config]
      omega
    refine (ih ht.toReady hfit').mono fun u ⟨hu, hbytes, hbelow⟩ => ⟨?_, ?_, fun a ha => ?_⟩
    · exact ⟨hu.toReady, hu.config.trans ht.config, fun r => (hu.reg r).trans (ht.reg r), rfl, hu.flags.trans ht.flags⟩
    · rw [Memory.bytes, hbytes, hbelow o (Nat.lt_succ_self o), hread, if_pos rfl]
    · rw [hbelow a (by omega), hread, if_neg (by omega)]

/-- The run of bytes that the host loads from inside BUF. -/
theorem hostReadBuf_returns {s : State} (h : Ready s) {o n : Nat} (hfit : o + n ≤ s.config.bufSize) :
    Returns (hostReadBuf o n s) fun x => x.1 = s.buf.bytes o n ∧ ReadyAs s x.2 := by
  induction n generalizing o s with
  | zero => exact returns_ok ⟨rfl, h.readyAs⟩
  | succ n ih =>
    have hsize := h.bufSize_le
    rw [hostReadBuf]
    refine (hostLoad_returns h.legal (by omega) (hostRead_buffer h.spent.idle (accessLegal_byte o))).bind fun (w, t) hw => ?_
    obtain ⟨hvalue, hreads⟩ : w = _ ∧ AfterReads s t := hw
    have hst := hreads.readyAs h
    have hbyte : BitVec.ofNat 8 w.toNat = s.buf.read o := by
      have hread : s.spent.bufByte o = s.buf.read o := if_pos (show o < s.config.bufSize by omega)
      rw [hvalue, laneValue_readBuf _ (accessLegal_byte o), Width.bytes, State.readBuf, State.readBuf, Nat.zero_add,
        Nat.pow_zero, Nat.mul_one, Nat.add_zero, hread, BitVec.ofNat_toNat, BitVec.setWidth_eq]
    refine (ih hst.toReady (by rw [hst.config]; omega)).bind fun (rest, u) hrest => ?_
    obtain ⟨rfl, hu⟩ : rest = t.buf.bytes (o + 1) n ∧ ReadyAs t u := hrest
    exact returns_ok ⟨by rw [hbyte, hst.buf, Memory.bytes], hst.trans hu⟩

end Sys2Proof.Machine
end

section
/-! SUPPORT. What encryption and decryption share on the engine (R255, R256): the key in its registers, and the powers. -/

namespace Sys2Proof.Machine

/-! ### The key -/

/-- An idle engine with the parameters `c` and a key: the modulus `n` in r1, the exponent `e` in r2 and the block size of `n` in r3.
A procedure keeps them once it has loaded them. -/
structure KeyLoaded (c : Config) (e n : Nat) (s : State) : Prop extends Ready s where
  config : s.config = c
  modulus : s.reg 1 = n
  exponent : s.reg 2 = e
  blockSize : s.reg 3 = Machine.blockSize n

section
variable {c : Config} {e n : Nat} {s t : State}

theorem KeyLoaded.width (h : KeyLoaded c e n s) : s.width = c.width := congrArg Config.width h.config

theorem KeyLoaded.legal (h : KeyLoaded c e n s) : c.Legal := h.config ▸ h.inv.legal

/-- The key stays in its registers when only other registers are written. -/
theorem KeyLoaded.of_regs {u : State} (h : KeyLoaded c e n s) (ht : ReadyAs u t) (hconfig : u.config = s.config)
    (hregs : ∀ r ∈ ([1, 2, 3] : List Reg), u.reg r = s.reg r) : KeyLoaded c e n t where
  toReady := ht.toReady
  config := (ht.config.trans hconfig).trans h.config
  modulus := ((ht.reg 1).trans (hregs 1 (by decide))).trans h.modulus
  exponent := ((ht.reg 2).trans (hregs 2 (by decide))).trans h.exponent
  blockSize := ((ht.reg 3).trans (hregs 3 (by decide))).trans h.blockSize

theorem KeyLoaded.setReg {d : Reg} {v : Nat} {f : Flags} (h : KeyLoaded c e n s)
    (ht : ReadyAs ((s.setReg d v).setFlags f) t) (hd : d ∉ ([1, 2, 3] : List Reg)) : KeyLoaded c e n t :=
  h.of_regs ht rfl fun r hr => by
    rw [State.reg_setFlags, State.reg_setReg, if_neg (ne_of_mem_of_not_mem hr hd)]

theorem KeyLoaded.readReg (h : KeyLoaded c e n s) (r : Reg) :
    Returns (hostReadReg r s) fun x => x.1 = s.reg r ∧ ReadyAs s x.2 ∧ KeyLoaded c e n x.2 :=
  (hostReadReg_returns h.toReady r).mono fun _ ⟨hvalue, hx⟩ => ⟨hvalue, hx, h.of_regs hx rfl fun _ _ => rfl⟩

theorem KeyLoaded.writeReg (h : KeyLoaded c e n s) (r : Reg) {v : Nat} (hv : v < 2 ^ c.width)
    (hr : r ∉ ([1, 2, 3] : List Reg)) : Returns (hostWriteReg r v s) fun t => ReadyAs (s.setReg r v) t ∧ KeyLoaded c e n t :=
  (hostWriteReg_returns h.toReady r (h.width ▸ hv)).mono fun _ ht => ⟨ht, h.setReg (f := s.flags) ht hr⟩

/-- A command that writes one register other than those of the key. -/
theorem KeyLoaded.cmd {i : Instr} {d : Reg} {v : Nat} {f : Flags} (h : KeyLoaded c e n s)
    (hexec : exec i (s.issued i) = complete (((s.issued i).setReg d v).setFlags f)) (hd : d ∉ ([1, 2, 3] : List Reg)) :
    Returns (hostCmd i s) fun t => t.reg d = v ∧ t.buf = s.buf ∧ KeyLoaded c e n t :=
  (hostCmd_setReg h.toReady hexec).mono fun _ ht =>
    ⟨by rw [ht.reg, State.reg_setFlags, State.reg_setReg, if_pos rfl], ht.buf, h.setReg ht hd⟩

/-- The block size written again by the host (R252, R253). -/
theorem KeyLoaded.writeBlockSize (h : KeyLoaded c e n s) :
    Returns (hostWriteReg 3 (Machine.blockSize n) s) (KeyLoaded c e n) := by
  have hlt : Machine.blockSize n < 2 ^ s.width := h.blockSize ▸ h.inv.regs 3
  refine (hostWriteReg_returns h.toReady 3 hlt).mono fun t ht => h.of_regs ht rfl fun r _ => ?_
  rw [State.reg_setReg]
  split
  · next hr => rw [hr, h.blockSize]
  · rfl

end

/-- The block of a modulus fits in a PACK and in an UNPACK (R203, R205). -/
theorem blockSize_le {W n : Nat} (hn : n < 2 ^ W) : blockSize n ≤ W / 8 := by
  have := bitlen_le_of_lt hn
  rw [blockSize]
  omega

section
variable {s : State} {e n : Nat}

/-- The host loads the two registers of a key before it derives the block size. -/
theorem writeKey_returns (h : Ready s) (he : e < 2 ^ s.config.width) (hn : n < 2 ^ s.config.width) :
    Returns (hostWriteReg 1 n s >>= hostWriteReg 2 e) fun t =>
      Ready t ∧ t.config = s.config ∧ t.reg 1 = n ∧ t.reg 2 = e := by
  refine (hostWriteReg_returns h 1 hn).bind fun t ht => ?_
  refine (hostWriteReg_returns ht.toReady 2 (ht.width ▸ he)).mono fun u hu => ?_
  exact ⟨hu.toReady, hu.config.trans ht.config, by simp [hu.reg, ht.reg], by simp [hu.reg]⟩

theorem loadKey_eq (e n : Nat) (s : State) :
    loadKey e n s = (hostWriteReg 1 n s >>= hostWriteReg 2 e) >>= fun t => hostCmd (.bsize 3 1) t >>= hostReadReg 3 := by
  simp only [loadKey, bind_assoc]

/-- The key is loaded, and its block size derived (R255, R256). -/
theorem loadKey_returns (h : Ready s) (he : e < 2 ^ s.config.width) (hn : n < 2 ^ s.config.width) (h0 : n ≠ 0) :
    Returns (loadKey e n s) fun x => x.1 = blockSize n ∧ KeyLoaded s.config e n x.2 := by
  rw [loadKey_eq]
  refine (writeKey_returns h he hn).bind fun t ⟨ht, hconfig, hmodulus, hexponent⟩ => ?_
  refine (hostCmd_setReg ht (exec_bsize_of_ne_zero 3 (a := 1) (s := t.issued _) (hmodulus.trans_ne h0))).bind fun u hu => ?_
  have hkey : KeyLoaded s.config e n u :=
    ⟨hu.toReady, hu.config.trans hconfig, by simp [hu.reg, hmodulus], by simp [hu.reg, hexponent],
      by simp [hu.reg, hmodulus]⟩
  exact (hkey.readReg 3).mono fun x ⟨hx, _, hkeyx⟩ => ⟨hx.trans hkey.blockSize, hkeyx⟩

/-- With modulus 0 the derivation of the block size faults (R201). -/
theorem loadKey_zero (h : Ready s) (he : e < 2 ^ s.config.width) :
    loadKey e 0 s = .error (.commandFault { code := 0x03, command := encode (.bsize 3 1) }) := by
  rw [loadKey_eq]
  refine (writeKey_returns h he (Nat.two_pow_pos _)).bind_error fun t ⟨ht, _, hmodulus, _⟩ => bind_error ?_ _
  exact hostCmd_fault ht (exec_bsize_zero 3 (a := 1) (s := t.issued _) hmodulus)

end

/-! ### The powers -/

section
variable {c : Config} {e n : Nat} {s : State}

theorem exec_modexp_of_ne_zero (d a b : Reg) {c : Reg} {s : State} (hc : s.reg c ≠ 0) :
    exec (.modexp d a b c) s =
      complete ((s.setReg d (s.reg a ^ s.reg b % s.reg c)).setFlags (s.flags.withZ (s.reg a ^ s.reg b % s.reg c))) := by
  rw [← powMod_eq]
  exact if_neg hc

/-- Each value is raised to the exponent modulo the modulus (R235). -/
theorem powerBlocks_returns (h : KeyLoaded c e n s) (h0 : n ≠ 0) {values : List Nat}
    (hvalues : ∀ v ∈ values, v < 2 ^ c.width) :
    Returns (powerBlocks values s) fun x => x.1 = values.map (fun b => b ^ e % n) ∧ KeyLoaded c e n x.2 := by
  induction values generalizing s with
  | nil => exact returns_ok ⟨rfl, h⟩
  | cons b rest ih =>
    obtain ⟨hb, hrest⟩ := List.forall_mem_cons.mp hvalues
    rw [powerBlocks]
    refine (h.writeReg 6 hb (by decide)).bind fun t ⟨ht, hkt⟩ => ?_
    have hbase : t.reg 6 = b := by simp [ht.reg]
    have hexec := exec_modexp_of_ne_zero 7 6 2 (c := 1) (s := t.issued (.modexp 7 6 2 1)) (hkt.modulus.trans_ne h0)
    refine (hkt.cmd hexec (by decide)).bind fun u ⟨hpower, _, hu⟩ => ?_
    refine (hu.readReg 7).bind fun (power, v) ⟨hv, _, hkv⟩ => ?_
    refine (ih hkv hrest).bind fun (powers, w) ⟨hw, hkw⟩ => returns_ok ⟨?_, hkw⟩
    rw [State.reg_issued, State.reg_issued, State.reg_issued, hbase, hkt.exponent, hkt.modulus] at hpower
    rw [List.map_cons, ← hpower, ← hw]
    exact congrArg (· :: powers) hv

end

end Sys2Proof.Machine
end

section
/-! SUPPORT. The encoding of a payload on the engine, chunk by chunk and segment by segment (R252), and with it the encryption
(R255). -/

namespace Sys2Proof.Machine

/-! ### Payloads in parts -/

/-- A payload whose first part is a whole number of chunks is encoded part by part (R252). -/
theorem dataBlocks_append {k : Nat} (hk : k ≠ 0) {chunks : Nat} {first : List Byte} (hfirst : first.length = chunks * k)
    (rest : List Byte) : dataBlocks (first ++ rest) k = dataBlocks first k ++ dataBlocks rest k := by
  induction chunks generalizing first with
  | zero =>
    rw [Nat.zero_mul, List.length_eq_zero_iff] at hfirst
    rw [hfirst, dataBlocks_nil hk, List.nil_append, List.nil_append]
  | succ chunks ih =>
    rw [Nat.succ_mul] at hfirst
    have hne : first ≠ [] := List.ne_nil_of_length_pos (by omega)
    rw [dataBlocks_of_ne_nil hk (List.append_ne_nil_of_left_ne_nil hne rest), dataBlocks_of_ne_nil hk hne,
      List.take_append_of_le_length (by omega), List.drop_append_of_le_length (by omega),
      ih (by rw [List.length_drop, hfirst, Nat.add_sub_cancel]), List.cons_append]

section
variable {size L k : Nat}

theorem segmentLength_le_size (size L k : Nat) : segmentLength size L k ≤ size := by
  rw [segmentLength]
  split
  · assumption
  · exact Nat.div_mul_le_self size k

theorem segmentLength_le (size L k : Nat) : segmentLength size L k ≤ L := by
  rw [segmentLength]
  split
  · exact le_rfl
  · next h => exact (Nat.div_mul_le_self size k).trans (Nat.le_of_not_le h)

/-- Where the payload or a chunk of it fits in BUF, a segment is not empty. -/
theorem segmentLength_ne_zero (hL : L ≠ 0) (hk : k ≠ 0) (hfits : L ≤ size ∨ k ≤ size) : segmentLength size L k ≠ 0 := by
  rw [segmentLength]
  split
  · exact hL
  · next h =>
    exact Nat.mul_ne_zero (Nat.div_pos (hfits.resolve_left h) (Nat.pos_of_ne_zero hk)).ne' hk

/-- A segment is encoded on its own: it is the whole payload, or a whole number of its chunks (R252). -/
theorem dataBlocks_segment (hk : k ≠ 0) (size : Nat) (bytes : List Byte) :
    dataBlocks bytes k = dataBlocks (bytes.take (segmentLength size bytes.length k)) k ++
      dataBlocks (bytes.drop (segmentLength size bytes.length k)) k := by
  have hle := segmentLength_le size bytes.length k
  rw [segmentLength] at hle ⊢
  split at hle
  · rw [if_pos ‹_›, List.take_length, List.drop_length, dataBlocks_nil hk, List.append_nil]
  · rw [if_neg ‹_›, ← dataBlocks_append hk (List.length_take_of_le hle), List.take_append_drop]

end

/-! ### Packing -/

/-- An offset or a length of BUF fits in a register. -/
theorem bufSize_lt_two_pow_width {c : Config} (h : c.Legal) : c.bufSize < 2 ^ c.width := by
  obtain ⟨⟨-, hwidth, -⟩, ⟨-, -, hsize⟩, -⟩ := h
  calc c.bufSize < 2 ^ 64 := by omega
    _ ≤ 2 ^ c.width := Nat.pow_le_pow_right (by decide) hwidth

section
variable {c : Config} {e n k : Nat} {s : State}

/-- A chunk of BUF is packed: its value is below the modulus, as it has no more bytes than a block, so PACK does not fault (R203). -/
theorem packChunk_returns (h : KeyLoaded c e n s) {o len : Nat} (hlen : len ≤ c.width / 8) (hfits : o + len ≤ c.bufSize)
    (hbound : 256 ^ len ≤ n) :
    Returns (((hostWriteReg 4 o s >>= hostWriteReg 5 len) >>= hostCmd (.pack 6 4 5 1)) >>= hostReadReg 6) fun x =>
      x.1 = bytesValue (s.buf.bytes o len) ∧ x.2.buf = s.buf ∧ KeyLoaded c e n x.2 := by
  simp only [bind_assoc]
  have hregister := bufSize_lt_two_pow_width h.legal
  refine (h.writeReg 4 (v := o) (by omega) (by decide)).bind fun t ⟨ht, hkt⟩ => ?_
  refine (hkt.writeReg 5 (v := len) (by omega) (by decide)).bind fun u ⟨hu, hku⟩ => ?_
  have hoffset : u.reg 4 = o := by simp [hu.reg, ht.reg]
  have hcount : u.reg 5 = len := by simp [hu.reg]
  have hbuf : u.buf = s.buf := hu.buf.trans ht.buf
  have hrange : ¬ (u.reg 5 > u.config.width / 8 ∨ u.reg 4 + u.reg 5 > u.config.bufSize) := by
    rw [hoffset, hcount, hku.config]
    omega
  have hlt : memRead u.buf (u.reg 4) (u.reg 5) < u.reg 1 := by
    rw [hoffset, hcount, hku.modulus]
    exact (memRead_lt _ _ _).trans_le hbound
  have hexec := exec_pack_of_lt 6 (c := 1) (s := u.issued (.pack 6 4 5 1)) hrange hlt
  refine (hku.cmd hexec (by decide)).bind fun v ⟨hpack, hbufv, hkv⟩ => ?_
  refine (hkv.readReg 6).mono fun x ⟨hblock, hx, hkx⟩ => ⟨?_, (hx.buf.trans hbufv).trans hbuf, hkx⟩
  rw [hblock, hpack, State.reg_issued, State.reg_issued, hoffset, hcount, memRead_eq_bytesValue, ← hbuf]
  rfl

/-- The chunks from chunk `j` on of a segment at offset 0 of BUF are packed one by one. -/
theorem packChunks_returns (h : KeyLoaded c e n s) (hk : k ≠ 0) (hwidth : k ≤ c.width / 8) (hbound : 256 ^ k ≤ n)
    {bytes : List Byte} (hsize : bytes.length ≤ c.bufSize) (hbuf : s.buf.bytes 0 bytes.length = bytes) {j count : Nat}
    (hcount : count = chunkCount (bytes.length - j * k) k) :
    Returns (packChunks bytes.length k j count s) fun x =>
      x.1 = dataBlocks (bytes.drop (j * k)) k ∧ KeyLoaded c e n x.2 := by
  induction count generalizing j s with
  | zero =>
    refine returns_ok ⟨(List.length_eq_zero_iff.mp ?_).symm, h⟩
    rw [dataBlocks_length, List.length_drop, ← hcount]
  | succ count ih =>
    have hj : j * k < bytes.length := by
      by_contra hge
      rw [Nat.sub_eq_zero_of_le (Nat.le_of_not_lt hge), chunkCount_zero hk] at hcount
      exact Nat.succ_ne_zero _ hcount
    have hlen : chunkLength bytes.length k j ≤ k := Nat.min_le_left _ _
    have hend : j * k + chunkLength bytes.length k j ≤ bytes.length := by
      have := Nat.min_le_right k (bytes.length - j * k)
      rw [chunkLength]
      omega
    have hchunk : s.buf.bytes (j * k) (chunkLength bytes.length k j) = (bytes.drop (j * k)).take k := by
      rw [← Nat.zero_add (j * k), ← Memory.take_drop_bytes _ _ hend, hbuf, chunkLength, ← List.length_drop,
        ← List.take_eq_take_min, Nat.zero_add]
    have hrest : count = chunkCount (bytes.length - (j + 1) * k) k := by
      rw [chunkCount_sub hk (by omega)] at hcount
      rw [Nat.succ_mul, ← Nat.sub_sub]
      omega
    have hne : bytes.drop (j * k) ≠ [] := by
      rw [Ne, List.drop_eq_nil_iff]
      omega
    simp only [packChunks, ← bind_assoc]
    refine (packChunk_returns h (hlen.trans hwidth) (hend.trans hsize)
      ((Nat.pow_le_pow_right (by decide) hlen).trans hbound)).bind fun x ⟨hblock, hbufx, hkx⟩ => ?_
    refine (ih hkx (hbufx ▸ hbuf) hrest).bind fun y ⟨hblocks, hky⟩ => returns_ok ⟨?_, hky⟩
    rw [dataBlocks_of_ne_nil hk hne, ← hchunk, List.drop_drop, ← Nat.succ_mul, hblock, hblocks]

/-- The data blocks of a payload, one segment after the other (R252). -/
theorem packSegments_returns (h : KeyLoaded c e n s) (hk : k ≠ 0) (hwidth : k ≤ c.width / 8) (hbound : 256 ^ k ≤ n)
    {fuel : Nat} {bytes : List Byte} (hfuel : bytes.length ≤ fuel) (hfits : bytes.length ≤ c.bufSize ∨ k ≤ c.bufSize) :
    Returns (packSegments k fuel bytes s) fun x => x.1 = dataBlocks bytes k ∧ KeyLoaded c e n x.2 := by
  induction fuel generalizing bytes s with
  | zero =>
    rw [List.length_eq_zero_iff.mp (Nat.le_zero.mp hfuel), dataBlocks_nil hk]
    exact returns_ok ⟨rfl, h⟩
  | succ fuel ih =>
    by_cases hnil : bytes = []
    · rw [hnil, dataBlocks_nil hk]
      exact returns_ok ⟨rfl, h⟩
    have hL : bytes.length ≠ 0 := mt List.length_eq_zero_iff.mp hnil
    have hne := segmentLength_ne_zero hL hk hfits
    have hsize := segmentLength_le_size c.bufSize bytes.length k
    have hle := segmentLength_le c.bufSize bytes.length k
    rw [dataBlocks_segment hk c.bufSize bytes, packSegments, if_neg (by simpa using hnil)]
    simp only [h.config, if_neg hne]
    generalize segmentLength c.bufSize bytes.length k = m at hne hsize hle ⊢
    have hfirst : (bytes.take m).length = m := List.length_take_of_le hle
    refine (hostWriteBuf_returns h.toReady (o := 0) (bytes := bytes.take m) (by rw [hfirst, h.config]; omega)).bind
      fun t ⟨ht, hbuf, _⟩ => ?_
    have hpack := packChunks_returns (h.of_regs ht rfl fun _ _ => rfl) hk hwidth hbound (hfirst.trans_le hsize) hbuf (j := 0)
      (count := chunkCount m k) (by rw [hfirst, Nat.zero_mul, Nat.sub_zero])
    rw [hfirst, Nat.zero_mul, List.drop_zero] at hpack
    refine hpack.bind fun (blocks, u) ⟨hblocks, hku⟩ => ?_
    have hrest : (bytes.drop m).length ≤ c.bufSize ∨ k ≤ c.bufSize := by
      rw [List.length_drop]
      exact hfits.imp_left fun hall => (Nat.sub_le _ _).trans hall
    refine (ih hku (by rw [List.length_drop]; omega) hrest).bind fun (blocks', v) ⟨hblocks', hkv⟩ => returns_ok ⟨?_, hkv⟩
    rw [← hblocks, ← hblocks']

/-! ### The encoding -/

theorem ne_zero_of_blockSize_ne_zero {n : Nat} (h : blockSize n ≠ 0) : n ≠ 0 := by
  rintro rfl
  exact h rfl

theorem Returns.renameFault {α : Type} {x : Except ProcError α} {P : α → Prop} (h : Returns x P) (codes : List Word)
    (err : ProcError) : Returns (renameFault codes err x) P := by
  obtain ⟨a, hx, ha⟩ := h
  exact ⟨a, renameFault_ok.mpr hx, ha⟩

/-- A fault with a listed code is renamed (R259). -/
theorem renameFault_listed {α : Type} {x : Except ProcError α} {codes : List Word} {err : ProcError} {record : FaultRecord}
    (h : x = .error (.commandFault record)) (hcode : codes.contains record.code = true) :
    renameFault codes err x = .error err := by
  rw [h]
  exact if_pos hcode

/-- The length of the payload and its block size give the marker (R252, R206). -/
theorem hostMarker_returns (h : KeyLoaded c e n s) (hk : blockSize n ≠ 0) {L : Nat} (hL : L < 2 ^ c.width) :
    Returns (hostWriteReg 8 L s >>= hostCmd (.marker 9 8 3)) fun t => t.reg 9 = L % blockSize n ∧ KeyLoaded c e n t := by
  refine (h.writeReg 8 hL (by decide)).bind fun t ⟨ht, hkt⟩ => ?_
  have hlength : t.reg 8 = L := by simp [ht.reg]
  refine (hkt.cmd (exec_marker_of_ne_zero 9 8 (b := 3) (s := t.issued _) (hkt.blockSize.trans_ne hk)) (by decide)).mono
    fun u ⟨hmarker, _, hku⟩ => ⟨?_, hku⟩
  rw [hmarker, State.reg_issued, State.reg_issued, hlength, hkt.blockSize]

/-- With block size 0 the derivation of the marker faults (R206). -/
theorem hostMarker_zero (h : KeyLoaded c e n s) (hk : blockSize n = 0) {L : Nat} (hL : L < 2 ^ c.width) :
    (hostWriteReg 8 L s >>= hostCmd (.marker 9 8 3)) =
      .error (.commandFault { code := 0x08, command := encode (.marker 9 8 3) }) :=
  (h.writeReg 8 hL (by decide)).bind_error fun t ⟨_, hkt⟩ =>
    hostCmd_fault hkt.toReady (exec_marker_zero 9 8 (b := 3) (s := t.issued _) (hkt.blockSize.trans hk))

/-- The encoding as its three parts: the block size, the data blocks, and the marker. -/
theorem encodeOnEngine_eq (bytes : List Byte) (k : Nat) (s : State) :
    encodeOnEngine bytes k s = Machine.renameFault [0x06, 0x08] .modulusOverflowBlock
      (hostWriteReg 3 k s >>= fun t =>
        (if k = 0 then .ok ([], t) else packSegments k bytes.length bytes t) >>= fun x =>
          (hostWriteReg 8 bytes.length x.2 >>= hostCmd (.marker 9 8 3)) >>= fun u =>
            hostReadReg 9 u >>= fun y => .ok (x.1 ++ [y.1], y.2)) := by
  rw [encodeOnEngine]
  refine congrArg _ (bind_congr fun t => ?_)
  simp only [bind_assoc]
  split <;> rfl

/-- With a block size of at least 1 the engine computes the reference encoding (R252). -/
theorem encodeOnEngine_returns (h : KeyLoaded c e n s) (hwidth : n < 2 ^ c.width) (hk : blockSize n ≠ 0) {bytes : List Byte}
    (hL : bytes.length < 2 ^ c.width) (hfits : bytes.length ≤ c.bufSize ∨ blockSize n ≤ c.bufSize) :
    Returns (encodeOnEngine bytes (blockSize n) s) fun x =>
      x.1 = encodeBlocks bytes (blockSize n) ∧ KeyLoaded c e n x.2 := by
  simp only [encodeOnEngine_eq, if_neg hk]
  refine Returns.renameFault (h.writeBlockSize.bind fun t ht => ?_) _ _
  obtain ⟨hbound, -⟩ := blockSize_bounds (ne_zero_of_blockSize_ne_zero hk)
  refine (packSegments_returns ht hk (blockSize_le hwidth) hbound le_rfl hfits).bind fun x ⟨hblocks, hx⟩ => ?_
  refine (hostMarker_returns hx hk hL).bind fun u ⟨hmarker, hu⟩ => ?_
  refine (hu.readReg 9).bind fun y ⟨hy, _, hkey⟩ => returns_ok ⟨?_, hkey⟩
  rw [hblocks, hy, hmarker, encodeBlocks_eq]

/-- With block size 0 the fault of MARKER is the error of a modulus below 256 (R255). -/
theorem encodeOnEngine_zero (h : KeyLoaded c e n s) (hk : blockSize n = 0) {bytes : List Byte}
    (hL : bytes.length < 2 ^ c.width) : encodeOnEngine bytes 0 s = .error .modulusOverflowBlock := by
  have hwrite := hk ▸ h.writeBlockSize
  simp only [encodeOnEngine_eq, if_true]
  exact renameFault_listed (hwrite.bind_error fun t ht => bind_error (hostMarker_zero ht hk hL) _) (by decide)

/-- Where neither the payload nor a chunk of it fits in BUF, the host packs no segment (log entry 13). -/
theorem encodeOnEngine_payloadTooLong (h : KeyLoaded c e n s) {bytes : List Byte} (hL : c.bufSize < bytes.length)
    (hk : c.bufSize < blockSize n) : encodeOnEngine bytes (blockSize n) s = .error .payloadTooLong := by
  have hpack (t : State) (ht : KeyLoaded c e n t) :
      packSegments (blockSize n) bytes.length bytes t = .error .payloadTooLong := by
    cases bytes with
    | nil => exact absurd hL (Nat.not_lt_zero _)
    | cons b rest =>
      have hsegment : segmentLength c.bufSize (b :: rest).length (blockSize n) = 0 := by
        rw [segmentLength, if_neg hL.not_ge, Nat.div_eq_of_lt hk, Nat.zero_mul]
      rw [List.length_cons, packSegments, ht.config, if_neg (by simp), hsegment]
      rfl
  simp only [encodeOnEngine_eq, if_neg (Nat.ne_zero_of_lt hk)]
  rw [h.writeBlockSize.bind_error fun t ht => bind_error (hpack t ht) _]
  rfl

end

/-! ### The encryption -/

/-- A procedure that ends without error gives the value its result has. -/
theorem Returns.map_fst {α : Type} {x : Except ProcError (α × State)} {v : α} (h : Returns x fun y => y.1 = v) :
    x.map Prod.fst = .ok v := by
  obtain ⟨y, rfl, hy⟩ := h
  exact congrArg Except.ok hy

theorem Returns.bind_map_fst {α β : Type} {x : Except ProcError α} {P : α → Prop} {f : α → Except ProcError (β × State)}
    {y : Except ProcError β} (h : Returns x P) (hf : ∀ a, P a → (f a).map Prod.fst = y) : (x >>= f).map Prod.fst = y := by
  obtain ⟨a, rfl, ha⟩ := h
  exact hf a ha

section
variable {e n : Nat} {s : State}

theorem encryptOnEngine_zero (h : Ready s) (he : e < 2 ^ s.config.width) (bytes : List Byte) :
    encryptOnEngine bytes e 0 s = .error (.commandFault { code := 0x03, command := encode (.bsize 3 1) }) :=
  bind_error (loadKey_zero h he) _

/-- The engine computes the reference encryption, its error for a modulus below 256 included (R255). -/
theorem encryptOnEngine_eq_encryptBlocks (h : Ready s) (he : e < 2 ^ s.config.width) (hn : n < 2 ^ s.config.width)
    (h0 : n ≠ 0) {bytes : List Byte} (hL : bytes.length < 2 ^ s.config.width)
    (hfits : bytes.length ≤ s.config.bufSize ∨ blockSize n ≤ s.config.bufSize) :
    (encryptOnEngine bytes e n s).map Prod.fst = encryptBlocks bytes e n := by
  refine (loadKey_returns h he hn h0).bind_map_fst fun (k, t) hkt => ?_
  obtain ⟨rfl, ht⟩ : k = blockSize n ∧ KeyLoaded s.config e n t := hkt
  by_cases hk : blockSize n = 0
  · have hencode : encodeOnEngine bytes (blockSize n) t = .error .modulusOverflowBlock := by
      rw [hk, encodeOnEngine_zero ht hk hL]
    rw [encryptBlocks, if_pos hk]
    exact congrArg (Except.map Prod.fst) (bind_error hencode _)
  · rw [encryptBlocks, if_neg hk]
    refine Returns.map_fst ((encodeOnEngine_returns ht hn hk hL hfits).bind fun (blocks, u) hblocks => ?_)
    obtain ⟨rfl, hu⟩ : blocks = encodeBlocks bytes (blockSize n) ∧ KeyLoaded s.config e n u := hblocks
    have hlt := encodeBlocks_lt hk (blockSize_bounds h0).1 bytes
    exact (powerBlocks_returns hu h0 fun b hb => (hlt b hb).trans hn).mono fun _ ⟨hpowers, _⟩ => hpowers

theorem encryptOnEngine_payloadTooLong (h : Ready s) (he : e < 2 ^ s.config.width) (hn : n < 2 ^ s.config.width)
    {bytes : List Byte} (hL : s.config.bufSize < bytes.length) (hk : s.config.bufSize < blockSize n) :
    encryptOnEngine bytes e n s = .error .payloadTooLong := by
  have h0 := ne_zero_of_blockSize_ne_zero (Nat.ne_zero_of_lt hk)
  refine (loadKey_returns h he hn h0).bind_error fun (k, t) hkt => ?_
  obtain ⟨rfl, ht⟩ : k = blockSize n ∧ KeyLoaded s.config e n t := hkt
  exact bind_error (encodeOnEngine_payloadTooLong ht hL hk) _

end

/-- Settles O58: the three clauses are the payload that is packed, the one that is not, and the modulus that BSIZE refuses. -/
theorem encryptOnEngineComputesEncrypt : Obligations.EncryptOnEngineComputesEncrypt := by
  intro bytes e n s hinv hidle he hn hL
  have h : Ready s := ⟨hinv, hidle⟩
  refine ⟨fun h0 hfits => encryptOnEngine_eq_encryptBlocks h he hn h0 hL hfits, fun hlong hk => ?_, ?_⟩
  · rw [encryptOnEngine_payloadTooLong h he hn hlong hk]
    rfl
  · rintro rfl
    rw [encryptOnEngine_zero h he]
    rfl

end Sys2Proof.Machine
end

section
/-! SUPPORT. The decoding of a sequence on the engine (R253), and with it the decryption (R256). -/

namespace Sys2Proof.Machine

/-! ### The length of a decoded payload -/

section
variable {L k : Nat}

/-- A chunk ends where the next one starts, or at the end of the payload. -/
theorem chunkStart_add_chunkLength (L k j : Nat) : min (j * k) L + chunkLength L k j = min ((j + 1) * k) L := by
  rw [chunkLength, Nat.succ_mul]
  omega

theorem blocksBytes_length (L k j : Nat) (blocks : List Nat) :
    min (j * k) L + (blocksBytes L k j blocks).length = min ((j + blocks.length) * k) L := by
  induction blocks generalizing j with
  | nil => rfl
  | cons b rest ih =>
    rw [blocksBytes, List.length_append, valueBytes_length, ← Nat.add_assoc, chunkStart_add_chunkLength, ih, List.length_cons,
      Nat.add_right_comm j 1, Nat.add_assoc]

/-- The counts of a payload bound its length: the last of the `m` blocks starts before its end, and ends at it or after it. -/
theorem decodedLength_bounds {m r : Nat} (h : ¬ Undecodable m r k) :
    decodedLength m r k ≤ m * k ∧ m * k < decodedLength m r k + k ∧ m ≤ decodedLength m r k := by
  rw [Undecodable, not_or, not_or] at h
  obtain ⟨hk, hr, hempty⟩ := h
  rw [decodedLength]
  split
  · exact ⟨le_rfl, by omega, Nat.le_mul_of_pos_right m (Nat.pos_of_ne_zero hk)⟩
  · next hr0 =>
    obtain ⟨m, rfl⟩ := Nat.exists_eq_succ_of_ne_zero fun hm => hempty ⟨hr0, hm⟩
    have := Nat.le_mul_of_pos_right m (Nat.pos_of_ne_zero hk)
    rw [Nat.succ_eq_add_one, Nat.add_sub_cancel, Nat.succ_mul]
    omega

end

/-! ### Unpacking -/

section
variable {c : Config} {d n k : Nat} {s : State}

/-- A block is unpacked into BUF at its place, which is in range, so UNPACK does not fault (R205). -/
theorem unpackBlock_returns (h : KeyLoaded c d n s) {o len b : Nat} (hlen : len ≤ c.width / 8) (hfits : o + len ≤ c.bufSize)
    (hb : b < 2 ^ c.width) :
    Returns (((hostWriteReg 4 o s >>= hostWriteReg 5 len) >>= hostWriteReg 6 b) >>= hostCmd (.unpack 4 5 6)) fun t =>
      t.buf = memWrite s.buf o b len ∧ KeyLoaded c d n t := by
  simp only [bind_assoc]
  have hregister := bufSize_lt_two_pow_width h.legal
  refine (h.writeReg 4 (v := o) (by omega) (by decide)).bind fun t ⟨ht, hkt⟩ => ?_
  refine (hkt.writeReg 5 (v := len) (by omega) (by decide)).bind fun u ⟨hu, hku⟩ => ?_
  refine (hku.writeReg 6 hb (by decide)).bind fun v ⟨hv, hkv⟩ => ?_
  have h4 : v.reg 4 = o := by simp [hv.reg, hu.reg, ht.reg]
  have h5 : v.reg 5 = len := by simp [hv.reg, hu.reg]
  have h6 : v.reg 6 = b := by simp [hv.reg]
  have hbuf : v.buf = s.buf := (hv.buf.trans hu.buf).trans ht.buf
  have hrange : ¬ (v.reg 5 > v.config.width / 8 ∨ v.reg 4 + v.reg 5 > v.config.bufSize) := by
    rw [h4, h5, hkv.config]
    omega
  have hexec := exec_unpack_of_fits 6 (a := 4) (b := 5) (s := v.issued (.unpack 4 5 6)) hrange
  refine (hostCmd_returns hkv.toReady hexec rfl).mono fun w hw => ⟨?_, hkv.of_regs hw rfl fun _ _ => rfl⟩
  rw [← hbuf, ← h4, ← h5, ← h6]
  exact hw.buf

/-- The blocks from block `j` on are unpacked after the bytes of those before it. -/
theorem unpackBlocks_returns (h : KeyLoaded c d n s) (hwidth : k ≤ c.width / 8) {L : Nat} (hL : L ≤ c.bufSize)
    {blocks : List Nat} (hblocks : ∀ b ∈ blocks, b < 2 ^ c.width) {j : Nat} (hend : (j + blocks.length) * k < L + k) :
    Returns (unpackBlocks L k j blocks s) fun t => KeyLoaded c d n t ∧
      t.buf.bytes 0 (min ((j + blocks.length) * k) L) = s.buf.bytes 0 (min (j * k) L) ++ blocksBytes L k j blocks := by
  induction blocks generalizing j s with
  | nil => exact returns_ok ⟨h, (List.append_nil _).symm⟩
  | cons b rest ih =>
    obtain ⟨hb, hrest⟩ := List.forall_mem_cons.mp hblocks
    have hnext : j + (rest.length + 1) = j + 1 + rest.length := by omega
    rw [List.length_cons, hnext] at hend
    have hj : j * k ≤ L := by
      have := Nat.mul_le_mul_right k (Nat.le_add_right (j + 1) rest.length)
      rw [Nat.succ_mul] at this
      omega
    have hlen : chunkLength L k j ≤ k := Nat.min_le_left _ _
    have hchunk : j * k + chunkLength L k j = min ((j + 1) * k) L := by
      rw [← chunkStart_add_chunkLength, Nat.min_eq_left hj]
    have hfits : j * k + chunkLength L k j ≤ c.bufSize := hchunk.trans_le ((Nat.min_le_right _ _).trans hL)
    simp only [unpackBlocks, ← bind_assoc]
    refine (unpackBlock_returns h (hlen.trans hwidth) hfits hb).bind fun t ⟨ht, hkt⟩ => ?_
    refine (ih hkt hrest hend).mono fun u ⟨hku, hu⟩ => ⟨hku, ?_⟩
    have hwf := h.inv.bufCanonical
    rw [List.length_cons, hnext, hu, blocksBytes, ← List.append_assoc, ← hchunk, Memory.bytes_add, ht,
      memWrite_bytes_below hwf _ _ (by omega), Nat.zero_add, memWrite_bytes hwf, Nat.min_eq_left hj]

/-! ### The decoding -/

/-- The counts are loaded before the length is derived: that of the data blocks modulo `2**W`, whatever it is. -/
theorem writeCounts_returns (h : KeyLoaded c d n s) (m : Nat) {r : Nat} (hr : r < 2 ^ c.width) :
    Returns (hostWriteReg 3 (blockSize n) s >>= fun t => hostWriteReg 8 m t >>= hostWriteReg 9 r) fun t =>
      t.reg 8 = m % 2 ^ c.width ∧ t.reg 9 = r ∧ KeyLoaded c d n t := by
  refine h.writeBlockSize.bind fun t ht => (hostWriteReg_truncates ht.toReady 8 m).bind fun u hu => ?_
  have hku := ht.setReg (f := t.flags) hu (by decide)
  refine (hku.writeReg 9 hr (by decide)).mono fun v ⟨hv, hkv⟩ => ⟨?_, by simp [hv.reg], hkv⟩
  simp [hv.reg, hu.reg, ht.width]

/-- The decoding of a sequence with a marker as its three parts: the counts, the length, and the bytes. -/
theorem decodeCommands_eq (data : List Nat) (r k : Nat) (s : State) :
    decodeCommands (data ++ [r]) k s =
      (hostWriteReg 3 k s >>= fun t => hostWriteReg 8 data.length t >>= hostWriteReg 9 r) >>= fun t =>
        (hostCmd (.dlen 12 8 9 3) t >>= hostReadReg 12) >>= fun x =>
          unpackBlocks x.1 k 0 data x.2 >>= hostReadBuf 0 x.1 := by
  rw [decodeCommands, List.getLast?_concat, List.dropLast_concat]
  simp only [bind_assoc]

section
variable {data : List Nat} {r : Nat}

/-- Counts that do not decode make DLEN fault, with block size 0 as BLK_ZERO and else as MALFORMED (R207). The length of the data
blocks matters only where it is 0, which is 0 modulo `2**W` too. -/
theorem decodeCommands_undecodable (h : KeyLoaded c d n s) (hr : r < 2 ^ c.width)
    (hbad : Undecodable data.length r (blockSize n)) : decodeCommands (data ++ [r]) (blockSize n) s =
      .error (.commandFault
        { code := (if blockSize n = 0 then FaultCode.blkZero else .malformed).byte.setWidth 32
          command := encode (.dlen 12 8 9 3) }) := by
  rw [decodeCommands_eq]
  refine (writeCounts_returns h data.length hr).bind_error fun t ⟨hm, hmarker, ht⟩ => bind_error (bind_error ?_ _) _
  refine hostCmd_fault ht.toReady ?_
  split
  · next hk => exact exec_dlen_zero 12 8 9 (c := 3) (s := t.issued _) (ht.blockSize.trans hk)
  · next hk =>
    refine exec_dlen_malformed 12 (c := 3) (s := t.issued _) (ht.blockSize.trans_ne hk) ?_
    rw [State.reg_issued, State.reg_issued, State.reg_issued, hm, hmarker, ht.blockSize]
    refine (hbad.resolve_left hk).imp_right fun ⟨hr0, hm0⟩ => .inl ⟨hr0, ?_⟩
    rw [hm0, Nat.zero_mod]

/-- Counts that decode, of a payload that fits in BUF, give its bytes (R253). -/
theorem decodeCommands_returns (h : KeyLoaded c d n s) (hn : n < 2 ^ c.width) (hdata : ∀ b ∈ data, b < 2 ^ c.width)
    (hr : r < 2 ^ c.width) (hgood : ¬ Undecodable data.length r (blockSize n))
    (hL : decodedLength data.length r (blockSize n) ≤ c.bufSize) :
    Returns (decodeCommands (data ++ [r]) (blockSize n) s) fun x =>
      x.1 = blocksBytes (decodedLength data.length r (blockSize n)) (blockSize n) 0 data := by
  obtain ⟨hend, hstart, hcount⟩ := decodedLength_bounds hgood
  have hregister := hL.trans_lt (bufSize_lt_two_pow_width h.legal)
  rw [Undecodable, not_or, not_or] at hgood
  obtain ⟨hk, hmarker, hempty⟩ := hgood
  rw [decodeCommands_eq]
  refine (writeCounts_returns h data.length hr).bind fun t ⟨h8, h9, ht⟩ => ?_
  rw [Nat.mod_eq_of_lt (hcount.trans_lt hregister)] at h8
  have hpass : ¬ MalformedCounts t.config.width (t.reg 8) (t.reg 9) (t.reg 3) := by
    rw [not_malformedCounts_iff, h8, h9, ht.blockSize, ht.config]
    omega
  have hlength : Returns (hostCmd (.dlen 12 8 9 3) t >>= hostReadReg 12) fun x =>
      x.1 = decodedLength data.length r (blockSize n) ∧ KeyLoaded c d n x.2 := by
    refine (ht.cmd (exec_dlen_of_not_malformed 12 (s := t.issued _) (ht.blockSize.trans_ne hk) hpass) (by decide)).bind
      fun u ⟨h12, _, hu⟩ => (hu.readReg 12).mono fun x ⟨hx, _, hkx⟩ => ⟨?_, hkx⟩
    rw [hx, h12, State.reg_issued, State.reg_issued, State.reg_issued, h8, h9, ht.blockSize]
  refine hlength.bind fun (L, u) hLu => ?_
  obtain ⟨rfl, hu⟩ : L = decodedLength data.length r (blockSize n) ∧ KeyLoaded c d n u := hLu
  refine (unpackBlocks_returns hu (blockSize_le hn) hL hdata (j := 0) (by rwa [Nat.zero_add])).bind fun v ⟨hv, hbytes⟩ => ?_
  refine (hostReadBuf_returns hv.toReady (by rwa [Nat.zero_add, hv.config])).mono fun x ⟨hx, _⟩ => ?_
  rw [Nat.zero_add, Nat.min_eq_right hend, Nat.zero_mul, Nat.zero_min, Memory.bytes, List.nil_append] at hbytes
  rw [hx, hbytes]

end

/-! ### The decryption -/

/-- The faults of DLEN as the errors of a decryption (R253, R284). -/
def renameDlenFaults (x : Except ProcError (List Byte × State)) : Except ProcError (List Byte × State) :=
  renameFault [0x08] .modulusOverflowBlock (renameFault [0x09] .malformedBlocks x)

/-- The decoding of a sequence for a modulus: that of its block size, with the error of a modulus below 256 where the sequence has
a marker (D34, R284). -/
def decodeForModulus (blocks : List Nat) (n : Nat) : Except ProcError (List Byte) :=
  if blockSize n = 0 ∧ blocks ≠ [] then .error .modulusOverflowBlock else decodeBlocks blocks (blockSize n)

theorem decryptBlocks_eq (values : List Nat) (d n : Nat) :
    decryptBlocks values d n = decodeForModulus (values.map fun v => v ^ d % n) n :=
  if_congr (and_congr_right' (not_congr List.map_eq_nil_iff.symm)) rfl rfl

/-- The engine decodes a sequence for its modulus as the reference does. -/
theorem renameDlenFaults_decodeCommands (h : KeyLoaded c d n s) (hn : n < 2 ^ c.width) {blocks : List Nat}
    (hblocks : ∀ b ∈ blocks, b < 2 ^ c.width)
    (hfits : ∀ bytes, decodeForModulus blocks n = .ok bytes → bytes.length ≤ c.bufSize) :
    (renameDlenFaults (decodeCommands blocks (blockSize n) s)).map Prod.fst = decodeForModulus blocks n := by
  obtain rfl | ⟨data, r, rfl⟩ := List.eq_nil_or_concat' blocks
  · rw [decodeForModulus, if_neg (fun hnil => hnil.2 rfl)]
    rfl
  obtain ⟨hdata, hmarker⟩ := List.forall_mem_append.mp hblocks
  have hr := hmarker r (List.mem_singleton_self r)
  by_cases hbad : Undecodable data.length r (blockSize n)
  · rw [decodeCommands_undecodable h hr hbad, decodeForModulus, decodeBlocks_undecodable hbad]
    by_cases hk : blockSize n = 0
    · rw [if_pos hk, if_pos ⟨hk, List.concat_ne_nil r data⟩]
      rfl
    · rw [if_neg hk, if_neg (fun hzero => hk hzero.1)]
      rfl
  · have hbytes : decodeForModulus (data ++ [r]) n = _ :=
      (if_neg fun hzero => hbad (.inl hzero.1)).trans (decodeBlocks_decodable hbad)
    have hlength := blocksBytes_length (decodedLength data.length r (blockSize n)) (blockSize n) 0 data
    obtain ⟨hend, -, -⟩ := decodedLength_bounds hbad
    rw [Nat.zero_mul, Nat.zero_min, Nat.zero_add, Nat.zero_add, Nat.min_eq_right hend] at hlength
    have hL := hlength ▸ hfits _ hbytes
    rw [hbytes]
    exact (((decodeCommands_returns h hn hdata hr hbad hL).renameFault _ _).renameFault _ _).map_fst

end

section
variable {d n : Nat} {s : State}

theorem decryptOnEngine_zero (h : Ready s) (hd : d < 2 ^ s.config.width) (values : List Nat) :
    decryptOnEngine values d 0 s = .error (.commandFault { code := 0x03, command := encode (.bsize 3 1) }) :=
  bind_error (loadKey_zero h hd) _

/-- The engine computes the reference decryption, its errors included (R256). -/
theorem decryptOnEngine_eq_decryptBlocks (h : Ready s) (hd : d < 2 ^ s.config.width) (hn : n < 2 ^ s.config.width) (h0 : n ≠ 0)
    {values : List Nat} (hvalues : ∀ v ∈ values, v < 2 ^ s.config.width)
    (hfits : ∀ bytes, decryptBlocks values d n = .ok bytes → bytes.length ≤ s.config.bufSize) :
    (decryptOnEngine values d n s).map Prod.fst = decryptBlocks values d n := by
  rw [decryptBlocks_eq] at hfits ⊢
  refine (loadKey_returns h hd hn h0).bind_map_fst fun (k, t) hkt => ?_
  obtain ⟨rfl, ht⟩ : k = blockSize n ∧ KeyLoaded s.config d n t := hkt
  refine (powerBlocks_returns ht h0 hvalues).bind_map_fst fun (powers, u) hpowers => ?_
  obtain ⟨rfl, hu⟩ : powers = values.map (fun v => v ^ d % n) ∧ KeyLoaded s.config d n u := hpowers
  have hlt : ∀ b ∈ values.map (fun v => v ^ d % n), b < 2 ^ s.config.width := by
    simpa using fun v _ => (Nat.mod_lt (v ^ d) (Nat.pos_of_ne_zero h0)).trans hn
  exact renameDlenFaults_decodeCommands hu hn hlt hfits

end

/-- Settles O59: the sequences for a modulus that BSIZE takes, and the modulus that it refuses. -/
theorem decryptOnEngineComputesDecrypt : Obligations.DecryptOnEngineComputesDecrypt := by
  intro values d n s hinv hidle hd hn hvalues
  have h : Ready s := ⟨hinv, hidle⟩
  refine ⟨fun h0 hfits => decryptOnEngine_eq_decryptBlocks h hd hn h0 hvalues hfits, ?_⟩
  rintro rfl
  rw [decryptOnEngine_zero h hd]
  rfl

end Sys2Proof.Machine
end

section
/-! SUPPORT. Key generation on the engine (R260 to R264): what its registers hold at each of its steps. -/

namespace Sys2Proof.Machine

/-! ### The flags that the host reads -/

theorem toWord_z (f : Flags) : f.toWord.getLsbD 0 = f.z := congrArg Flags.z (flags_toWord f).2

theorem toWord_eq (f : Flags) : f.toWord.getLsbD 4 = f.eq := congrArg Flags.eq (flags_toWord f).2

theorem toWord_gt (f : Flags) : f.toWord.getLsbD 5 = f.gt := congrArg Flags.gt (flags_toWord f).2

theorem toWord_p (f : Flags) : f.toWord.getLsbD 6 = f.p := congrArg Flags.p (flags_toWord f).2

/-! ### The constants and the exponent -/

/-- `t` is an idle engine with the parameters of `s`, and with every register of `s` but those of `ds`. -/
structure ReadyBut (ds : List Reg) (s t : State) : Prop extends Ready t where
  config : t.config = s.config
  regs : RegsKeptExcept ds s t

theorem ReadyBut.trans {ds es : List Reg} {s t u : State} (h : ReadyBut ds s t) (h' : ReadyBut es t u) :
    ReadyBut (ds ++ es) s u :=
  ⟨h'.toReady, h'.config.trans h.config, h.regs.trans h'.regs⟩

theorem ReadyBut.width {ds : List Reg} {s t : State} (h : ReadyBut ds s t) : t.width = s.width :=
  congrArg Config.width h.config

theorem ReadyAs.readyBut {s t : State} (h : ReadyAs s t) : ReadyBut [] s t := ⟨h.toReady, h.config, fun r _ => h.reg r⟩

/-- An idle engine with the constants of a key generation for `B` bits: 1 in r1, `2**B` in r2 and 2 in r3, where two values of `B`
bits have their product in range (R260). -/
structure KeygenReady (B : Nat) (s : State) : Prop extends Ready s where
  fits : 2 * B ≤ s.width
  one : s.reg 1 = 1
  bound : s.reg 2 = 2 ^ B
  two : s.reg 3 = 2

/-- The constants stay in their registers. -/
theorem KeygenReady.keep {B : Nat} {ds : List Reg} {s t : State} (h : KeygenReady B s) (ht : ReadyBut ds s t)
    (hds : ∀ r ∈ ([1, 2, 3] : List Reg), r ∉ ds) : KeygenReady B t where
  toReady := ht.toReady
  fits := ht.width ▸ h.fits
  one := (ht.regs 1 (hds 1 (by decide))).trans h.one
  bound := (ht.regs 2 (hds 2 (by decide))).trans h.bound
  two := (ht.regs 3 (hds 3 (by decide))).trans h.two

/-! ### The commands of the generation -/

section
variable {s : State}

/-- A command that completes leaves an idle engine with its results, and with the registers that it does not write. -/
theorem hostCmd_completed {i : Instr} {u : State} {ds : List Reg} (h : Ready s) (hexec : exec i (s.issued i) = .next u)
    (hregs : RegsKeptExcept ds s u) (hdone : Completed (s.issued i) u) :
    Returns (hostCmd i s) fun t => ReadyAs u t ∧ ReadyBut ds s t :=
  (hostCmd_returns h hexec hdone.err).mono fun _ ht =>
    ⟨ht, ht.toReady, ht.config.trans hdone.config, fun r hr => (ht.reg r).trans (hregs r hr)⟩

/-- A command that writes one register and flags. -/
theorem hostCmd_result {i : Instr} {d : Reg} {v : Nat} {f : Flags} (h : Ready s)
    (hexec : exec i (s.issued i) = complete (((s.issued i).setReg d v).setFlags f)) :
    Returns (hostCmd i s) fun t => t.reg d = v ∧ ReadyBut [d] s t := by
  obtain ⟨u, hu, hd, hregs, -, -, -, hdone⟩ := complete_setReg hexec
  exact (hostCmd_completed h hu hregs hdone).mono fun _ ⟨ht, hkept⟩ => ⟨(ht.reg d).trans hd, hkept⟩

/-- RAND draws below its bound, which is not 0 (R191). -/
theorem hostRand_returns (h : Ready s) (d : Reg) {a : Reg} (ha : s.reg a ≠ 0) :
    Returns (hostCmd (.rand d a) s) fun t => t.reg d < s.reg a ∧ ReadyBut [d] s t := by
  obtain ⟨-, rand⟩ := randDrawsBelowItsBound
  obtain ⟨u, hu, -, hdraw⟩ := rand d a (s.issued (.rand d a))
  obtain ⟨hlt, -, -, hregs, -, -, hdone⟩ := hdraw ha
  exact (hostCmd_completed h hu hregs hdone).mono fun _ ⟨ht, hkept⟩ => ⟨(ht.reg d).trans_lt hlt, hkept⟩

/-- A product in range is exact (R125). -/
theorem hostMul_returns (h : Ready s) (d a b : Reg) (hlt : s.reg a * s.reg b < 2 ^ s.width) :
    Returns (hostCmd (.mul d a b) s) fun t => t.reg d = s.reg a * s.reg b ∧ ReadyBut [d] s t :=
  (hostCmd_result h (d := d) (v := truncW s.width (s.reg a * s.reg b)) rfl).mono fun _ ⟨hd, ht⟩ =>
    ⟨hd.trans (Nat.mod_eq_of_lt hlt), ht⟩

/-- A difference without borrow is exact (R124). -/
theorem hostSub_returns (h : Ready s) (d a b : Reg) (hle : s.reg b ≤ s.reg a) :
    Returns (hostCmd (.sub d a b) s) fun t => t.reg d = s.reg a - s.reg b ∧ ReadyBut [d] s t :=
  (hostCmd_result h (d := d) (v := truncIntW s.width (s.reg a - s.reg b)) rfl).mono fun _ ⟨hd, ht⟩ =>
    ⟨hd.trans (truncIntW_sub hle (h.inv.regs a)), ht⟩

/-- The evenness test of R261: with 2 in the divisor, Z is that of the remainder. -/
theorem hostEven_returns (h : Ready s) (htwo : s.reg 3 = 2) :
    Returns (hostCmd (.divmod 5 6 4 3) s >>= hostFlag 0) fun x =>
      x.1 = decide (s.reg 4 % 2 = 0) ∧ ReadyBut [5, 6] s x.2 := by
  have hexec := exec_divmod_of_ne_zero 5 6 4 (b := 3) (s := s.issued (.divmod 5 6 4 3)) (htwo.trans_ne (by decide))
  have hregs : RegsKeptExcept [5, 6] s _ :=
    (regsKept_setReg s 5 (s.reg 4 / s.reg 3)).trans (regsKept_setReg _ 6 (s.reg 4 % s.reg 3))
  refine (hostCmd_completed h hexec hregs (completed_finish (s.issued _) _ _ _ _)).bind fun t ⟨ht, hkept⟩ => ?_
  refine (hostFlag_returns ht.toReady 0).mono fun x ⟨hx, hread⟩ => ⟨?_, hkept.trans hread.readyBut⟩
  rw [hx, toWord_z, ht.flags, ← htwo]
  rfl

/-- A candidate of R262 is below its bound, and MRTEST accepts none below 2 (R182). -/
theorem hostCandidate_returns (h : Ready s) (d : Reg) (imm : BitVec 8) (hbound : s.reg 4 ≠ 0) :
    Returns ((hostCmd (.rand d 4) s >>= hostCmd (.mrtest d imm)) >>= hostFlag 6) fun x =>
      x.2.reg d < s.reg 4 ∧ (x.1 = true → 2 ≤ x.2.reg d) ∧ ReadyBut [d] s x.2 := by
  rw [bind_assoc]
  refine (hostRand_returns h d hbound).bind fun t ⟨hlt, ht⟩ => ?_
  obtain ⟨-, mrtest⟩ := mrtestAcceptsWhenEveryRoundPasses
  obtain ⟨u, hu, hregs, -, -, hdone, hsmall, -⟩ := mrtest d imm (t.issued (.mrtest d imm))
  refine (hostCmd_completed ht.toReady hu hregs hdone).bind fun v ⟨hv, hkept⟩ => ?_
  refine (hostFlag_returns hv.toReady 6).mono fun x ⟨hx, hread⟩ => ?_
  have hkeptx := hkept.trans hread.readyBut
  have hd : x.2.reg d = t.reg d := hkeptx.regs d (by simp)
  refine ⟨hd ▸ hlt, fun haccepted => ?_, ht.trans hkeptx⟩
  by_contra hsmaller
  obtain ⟨hrejected, -⟩ := hsmall (.inl (Nat.le_of_lt_succ (Nat.lt_of_not_le (hd ▸ hsmaller))))
  rw [hx, toWord_p, hv.flags, hrejected] at haccepted
  cases haccepted

/-- The comparisons of R262: EQ and GT are those of the unsigned order (R141). -/
theorem hostCmp_returns (h : Ready s) (a b : Reg) :
    Returns (hostCmd (.cmp a b) s) fun t => t.flags = s.flags.ofCompare (s.reg a) (s.reg b) ∧ ReadyBut [] s t := by
  obtain ⟨-, cmp⟩ := cmpSetsOneOfThreeFlags
  obtain ⟨u, hu, hregs, -, hflags, -, -, hdone⟩ := cmp a b (s.issued (.cmp a b))
  exact (hostCmd_completed h hu hregs hdone).mono fun _ ⟨ht, hkept⟩ => ⟨ht.flags.trans hflags, hkept⟩

theorem hostEqual_returns (h : Ready s) (a b : Reg) :
    Returns (hostCmd (.cmp a b) s >>= hostFlag 4) fun x => x.1 = decide (s.reg a = s.reg b) ∧ ReadyBut [] s x.2 := by
  refine (hostCmp_returns h a b).bind fun t ⟨hflags, ht⟩ => ?_
  refine (hostFlag_returns ht.toReady 4).mono fun x ⟨hx, hread⟩ => ⟨?_, ht.trans hread.readyBut⟩
  rw [hx, toWord_eq, hflags, Flags.ofCompare]

theorem hostGreater_returns (h : Ready s) (a b : Reg) :
    Returns (hostCmd (.cmp a b) s >>= hostFlag 5) fun x => x.1 = decide (s.reg b < s.reg a) ∧ ReadyBut [] s x.2 := by
  refine (hostCmp_returns h a b).bind fun t ⟨hflags, ht⟩ => ?_
  refine (hostFlag_returns ht.toReady 5).mono fun x ⟨hx, hread⟩ => ⟨?_, ht.trans hread.readyBut⟩
  rw [hx, toWord_gt, hflags, Flags.ofCompare]

end

/-! ### Step 1: the exponent -/

/-- A drawn exponent is odd and below `2**B` (R261). -/
theorem keygenReady_of_drawExponent {B draws : Nat} {s t : State} {left : Option Nat} (h : KeygenReady B s)
    (hrun : drawExponent draws s = .ok (left, t)) :
    KeygenReady B t ∧ (left ≠ none → t.reg 4 % 2 = 1 ∧ t.reg 4 < 2 ^ B) := by
  induction draws generalizing s with
  | zero =>
    obtain ⟨rfl, rfl⟩ := Prod.mk.inj (Except.ok.inj hrun)
    exact ⟨h, fun hnone => absurd rfl hnone⟩
  | succ draws ih =>
    simp only [drawExponent, ← bind_assoc] at hrun
    have hbound : s.reg 2 ≠ 0 := h.bound.trans_ne (Nat.two_pow_pos B).ne'
    have hdraw : Returns ((hostCmd (.rand 4 2) s >>= hostCmd (.divmod 5 6 4 3)) >>= hostFlag 0) fun x =>
        x.1 = decide (x.2.reg 4 % 2 = 0) ∧ x.2.reg 4 < 2 ^ B ∧ KeygenReady B x.2 := by
      rw [bind_assoc]
      refine (hostRand_returns h.toReady 4 hbound).bind fun u ⟨hlt, hu⟩ => ?_
      have hku := h.keep hu (by decide)
      refine (hostEven_returns hu.toReady hku.two).mono fun x ⟨heven, hx⟩ => ?_
      have h4 : x.2.reg 4 = u.reg 4 := hx.regs 4 (by decide)
      exact ⟨h4 ▸ heven, (h4.trans_lt hlt).trans_eq h.bound, hku.keep hx (by decide)⟩
    obtain ⟨x, ⟨heven, hlt, hx⟩, hrun⟩ := hdraw.of_bind_ok hrun
    rw [heven] at hrun
    split at hrun
    · exact ih hx hrun
    · next hodd =>
      obtain ⟨-, rfl⟩ := Prod.mk.inj (Except.ok.inj hrun)
      rw [decide_eq_true_iff] at hodd
      exact ⟨hx, fun _ => ⟨by omega, hlt⟩⟩

/-! ### Step 2: the primes -/

/-- What R250 and R262 say of the two values that step 2 ends with. -/
structure PrimesFit (e p q : Nat) : Prop where
  ne : p ≠ q
  two_le_p : 2 ≤ p
  p_lt : p < e
  two_le_q : 2 ≤ q
  q_lt : q < e
  phi : e < (p - 1) * (q - 1)

/-- Products of two values of `B` bits are in range (R260). -/
theorem KeygenReady.mul_lt {B x y : Nat} {s : State} (h : KeygenReady B s) (hx : x < 2 ^ B) (hy : y < 2 ^ B) :
    x * y < 2 ^ s.width :=
  calc x * y < 2 ^ B * 2 ^ B := Nat.mul_lt_mul'' hx hy
    _ = 2 ^ (2 * B) := by rw [← Nat.pow_add, Nat.two_mul]
    _ ≤ 2 ^ s.width := Nat.pow_le_pow_right (by decide) h.fits

/-- The product `(p-1)(q-1)` of R250 in r12. -/
theorem hostPhi_returns {B : Nat} {s : State} (h : KeygenReady B s) (hp : 1 ≤ s.reg 7) (hq : 1 ≤ s.reg 8)
    (hpB : s.reg 7 < 2 ^ B) (hqB : s.reg 8 < 2 ^ B) :
    Returns ((hostCmd (.sub 10 7 1) s >>= hostCmd (.sub 11 8 1)) >>= hostCmd (.mul 12 10 11)) fun t =>
      t.reg 12 = (s.reg 7 - 1) * (s.reg 8 - 1) ∧ ReadyBut [10, 11, 12] s t := by
  rw [bind_assoc]
  refine (hostSub_returns h.toReady 10 7 1 (h.one ▸ hp)).bind fun t ⟨h10, ht⟩ => ?_
  have h8 : t.reg 8 = s.reg 8 := ht.regs 8 (by decide)
  have h1 : t.reg 1 = 1 := (ht.regs 1 (by decide)).trans h.one
  refine (hostSub_returns ht.toReady 11 8 1 (by rwa [h1, h8])).bind fun u ⟨h11, hu⟩ => ?_
  rw [h.one, ← hu.regs 10 (by decide)] at h10
  rw [h1, h8] at h11
  refine (hostMul_returns hu.toReady 12 10 11 ?_).mono fun v ⟨h12, hv⟩ => ⟨?_, (ht.trans hu).trans hv⟩
  · rw [h10, h11, hu.width, ht.width]
    exact h.mul_lt (by omega) (by omega)
  · rw [h12, h10, h11]

/-- Step 2 of a generation with exponent `e`: once the first value is found, it is in r7. -/
structure Searching (B e : Nat) (found : Bool) (s : State) : Prop extends KeygenReady B s where
  exponent : s.reg 4 = e
  first : found = true → 2 ≤ s.reg 7 ∧ s.reg 7 < e

theorem Searching.keep {B e : Nat} {found : Bool} {ds : List Reg} {s t : State} (h : Searching B e found s)
    (ht : ReadyBut ds s t) (hds : ∀ r ∈ ([1, 2, 3, 4, 7] : List Reg), r ∉ ds) : Searching B e found t where
  toKeygenReady := h.toKeygenReady.keep ht fun r hr => hds r (List.mem_append_left [4, 7] hr)
  exponent := (ht.regs 4 (hds 4 (by decide))).trans h.exponent
  first := ht.regs 7 (hds 7 (by decide)) ▸ h.first

/-- The end of step 2: two values that fit the exponent in r7 and r8, and `(p-1)(q-1)` in r12. -/
structure PrimesFound (B e : Nat) (s : State) : Prop extends KeygenReady B s where
  exponent : s.reg 4 = e
  fit : PrimesFit e (s.reg 7) (s.reg 8)
  phi : s.reg 12 = (s.reg 7 - 1) * (s.reg 8 - 1)

section
variable {B e draws : Nat} {s t : State}

/-- The last test of step 2: `(p-1)(q-1)` is derived in r12, and compared with the exponent (R262). -/
theorem hostExceeds_returns (h : Searching B e true s) (hlt : e < 2 ^ B) (hq : 2 ≤ s.reg 8) (hqe : s.reg 8 < e) :
    Returns ((((hostCmd (.sub 10 7 1) s >>= hostCmd (.sub 11 8 1)) >>= hostCmd (.mul 12 10 11)) >>= hostCmd (.cmp 12 4)) >>=
      hostFlag 5) fun x => x.1 = decide (e < (s.reg 7 - 1) * (s.reg 8 - 1)) ∧
        x.2.reg 12 = (s.reg 7 - 1) * (s.reg 8 - 1) ∧ ReadyBut [10, 11, 12] s x.2 := by
  obtain ⟨hp, hpe⟩ := h.first rfl
  rw [bind_assoc]
  refine (hostPhi_returns h.toKeygenReady (by omega) (by omega) (by omega) (by omega)).bind fun t ⟨h12, ht⟩ => ?_
  have he : t.reg 4 = e := (ht.regs 4 (by decide)).trans h.exponent
  refine (hostGreater_returns ht.toReady 12 4).mono fun x ⟨hexceeds, hx⟩ =>
    ⟨?_, (hx.regs 12 (by decide)).trans h12, ht.trans hx⟩
  rw [hexceeds, h12, he]

/-- A turn of the search for the first value. -/
theorem searchPrimes_first (h : Searching B e false s) (he : e ≠ 0) (hrun : searchPrimes (draws + 1) false s = .ok t) :
    ∃ found u, Searching B e found u ∧ searchPrimes draws found u = .ok t := by
  simp only [searchPrimes, ← bind_assoc] at hrun
  obtain ⟨x, ⟨hp, hprime, hx⟩, hrun⟩ := (hostCandidate_returns h.toReady 7 _ (h.exponent.trans_ne he)).of_bind_ok hrun
  exact ⟨x.1, x.2, ⟨h.toKeygenReady.keep hx (by decide), (hx.regs 4 (by decide)).trans h.exponent,
    fun hfound => ⟨hprime hfound, hp.trans_eq h.exponent⟩⟩, hrun⟩

/-- A turn of the search for the second value ends the search, or leads to a next turn. -/
theorem searchPrimes_second (h : Searching B e true s) (he : e ≠ 0) (hlt : e < 2 ^ B)
    (hrun : searchPrimes (draws + 1) true s = .ok t) :
    PrimesFound B e t ∨ ∃ found u, Searching B e found u ∧ searchPrimes draws found u = .ok t := by
  simp only [searchPrimes, ← bind_assoc] at hrun
  obtain ⟨x, ⟨hqe, hprime, hx⟩, hrun⟩ := (hostCandidate_returns h.toReady 8 _ (h.exponent.trans_ne he)).of_bind_ok hrun
  have hsx := h.keep hx (by decide)
  split at hrun
  case isFalse => exact .inr ⟨_, x.2, hsx, hrun⟩
  next haccepted =>
    obtain ⟨y, ⟨hsame, hy⟩, hrun⟩ := (hostEqual_returns hsx.toReady 8 7).of_bind_ok hrun
    have hsy := hsx.keep hy (by decide)
    have hne : ¬ y.1 = true → y.2.reg 7 ≠ y.2.reg 8 := by
      rw [hsame, decide_eq_true_iff, hy.regs 7 (by decide), hy.regs 8 (by decide)]
      exact Ne.symm
    have hq : 2 ≤ y.2.reg 8 ∧ y.2.reg 8 < e := by
      rw [hy.regs 8 (by decide)]
      exact ⟨hprime haccepted, hqe.trans_eq h.exponent⟩
    split at hrun
    case isTrue => exact .inr ⟨_, y.2, hsy, hrun⟩
    next hdistinct =>
      obtain ⟨z, ⟨hexceeds, hphi, hz⟩, hrun⟩ := (hostExceeds_returns hsy hlt hq.1 hq.2).of_bind_ok hrun
      have hsz := hsy.keep hz (by decide)
      split at hrun
      case isFalse => exact .inr ⟨false, z.2, { hsz with first := nofun }, hrun⟩
      next hlarge =>
        obtain rfl := Except.ok.inj hrun
        rw [hexceeds, decide_eq_true_iff] at hlarge
        have h7 : z.2.reg 7 = y.2.reg 7 := hz.regs 7 (by decide)
        have h8 : z.2.reg 8 = y.2.reg 8 := hz.regs 8 (by decide)
        obtain ⟨hp, hpe⟩ := hsy.first rfl
        refine .inl { hsz with fit := ?_, phi := ?_ }
        · rw [h7, h8]
          exact ⟨hne hdistinct, hp, hpe, hq.1, hq.2, hlarge⟩
        · rw [h7, h8, hphi]

/-- The search ends only with two values that fit the exponent. -/
theorem primesFound_of_searchPrimes {found : Bool} (h : Searching B e found s) (he : e ≠ 0) (hlt : e < 2 ^ B)
    (hrun : searchPrimes draws found s = .ok t) : PrimesFound B e t := by
  induction draws generalizing found s with
  | zero => cases hrun
  | succ draws ih =>
    have hturn : PrimesFound B e t ∨ ∃ found u, Searching B e found u ∧ searchPrimes draws found u = .ok t := by
      cases found with
      | false => exact .inr (searchPrimes_first h he hrun)
      | true => exact searchPrimes_second h he hlt hrun
    obtain hend | ⟨found', u, hu, hrun'⟩ := hturn
    · exact hend
    · exact ih hu hrun'

end

/-- A procedure that ended without error did so in its first action. -/
theorem exists_of_bind_ok {α β : Type} {x : Except ProcError α} {f : α → Except ProcError β} {b : β}
    (h : x >>= f = .ok b) : ∃ a, x = .ok a ∧ f a = .ok b := by
  cases x with
  | error => cases h
  | ok a => exact ⟨a, rfl, h⟩

/-! ### Steps 3 and 4: the modulus and the inverse exponent -/

/-- A key meets R250 and R264 for a generation of `B` bits. -/
def KeyFits (B : Nat) (key : KeyMaterial) : Prop :=
  ∃ p q, p ≠ q ∧ 2 ≤ p ∧ p < key.e ∧ 2 ≤ q ∧ q < key.e ∧ key.n = p * q ∧ key.e % 2 = 1 ∧ key.e < 2 ^ B ∧
    key.e < (p - 1) * (q - 1) ∧ Nat.gcd key.e ((p - 1) * (q - 1)) = 1 ∧ key.d < (p - 1) * (q - 1) ∧
    key.e * key.d % ((p - 1) * (q - 1)) = 1

/-- MODINV answers the inverse of the exponent, or asks for the next attempt (R263). -/
theorem deriveExponent_returns {s : State} (h : Ready s) (h0 : s.reg 12 ≠ 0) :
    Returns (deriveExponent s) fun x => ReadyBut [14] s x.2 ∧ (x.1 = true → Nat.gcd (s.reg 4) (s.reg 12) = 1 ∧
      x.2.reg 14 < s.reg 12 ∧ s.reg 4 * x.2.reg 14 % s.reg 12 = 1 % s.reg 12) := by
  obtain ⟨-, modinv⟩ := modinvGivesTheInverse
  obtain ⟨u, hu, -, hfault, hinverse⟩ := modinv 14 4 12 (s.issued (.modinv 14 4 12))
  rw [deriveExponent]
  refine (hostCommand_returns h hu).bind fun (record, t) hrecord => ?_
  obtain ⟨rfl, ht⟩ : record = u.faultRecord ∧ ReadyAs u t := hrecord
  by_cases hgcd : Nat.gcd (s.reg 4) (s.reg 12) = 1
  · obtain ⟨-, hlt, hmul, hregs, -, -, -, hdone⟩ := hinverse h0 hgcd
    rw [State.faultRecord, hdone.err]
    refine returns_ok ⟨⟨ht.toReady, ht.config.trans hdone.config, fun r hr => (ht.reg r).trans (hregs r hr)⟩, fun _ => ?_⟩
    rw [ht.reg]
    exact ⟨hgcd, hlt, hmul⟩
  · have hfaulted := hfault h0 hgcd
    rw [State.faultRecord, hfaulted.err, hfaulted.errcode]
    exact returns_ok ⟨⟨ht.toReady, ht.config.trans hfaulted.config, fun r _ => (ht.reg r).trans (hfaulted.regs r)⟩, nofun⟩

/-- The registers of the key are read as they are: the product of the two values is exact (R260). -/
theorem keyFits_of_registers {B e : Nat} {s t u : State} (hlt : e < 2 ^ B) (hodd : e % 2 = 1) (h : PrimesFound B e s)
    (ht : ReadyBut [13] s t) (hn : t.reg 13 = s.reg 7 * s.reg 8) (hu : ReadyBut [14] t u)
    (hgcd : Nat.gcd (t.reg 4) (t.reg 12) = 1) (hd : u.reg 14 < t.reg 12)
    (hmul : t.reg 4 * u.reg 14 % t.reg 12 = 1 % t.reg 12) : KeyFits B { n := u.reg 13, e := u.reg 4, d := u.reg 14 } := by
  have h4 : t.reg 4 = e := (ht.regs 4 (by decide)).trans h.exponent
  have h12 : t.reg 12 = (s.reg 7 - 1) * (s.reg 8 - 1) := (ht.regs 12 (by decide)).trans h.phi
  have hu4 : u.reg 4 = e := (hu.regs 4 (by decide)).trans h4
  have hu13 : u.reg 13 = s.reg 7 * s.reg 8 := (hu.regs 13 (by decide)).trans hn
  obtain ⟨hne, hp, hpe, hq, hqe, hphi⟩ := h.fit
  rw [h4, h12] at hgcd hmul
  rw [h12] at hd
  rw [Nat.mod_eq_of_lt (by omega : 1 < (s.reg 7 - 1) * (s.reg 8 - 1))] at hmul
  rw [hu4, hu13]
  exact ⟨_, _, hne, hp, hpe, hq, hqe, rfl, hodd, hlt, hphi, hgcd, hd, hmul⟩

/-- Every key that an attempt answers fits. -/
theorem keyFits_of_attemptKeys {B maxDraws attempts : Nat} {s t : State} {key : KeyMaterial} (h : KeygenReady B s)
    (hrun : attemptKeys maxDraws attempts s = .ok (key, t)) : KeyFits B key := by
  induction attempts generalizing s with
  | zero => cases hrun
  | succ attempts ih =>
    rw [attemptKeys] at hrun
    obtain ⟨⟨left, u⟩, hexponent, hrun⟩ := exists_of_bind_ok hrun
    obtain ⟨hu, hdrawn⟩ := keygenReady_of_drawExponent h hexponent
    cases left with
    | none => exact ih hu hrun
    | some draws =>
      obtain ⟨hodd, hlt⟩ := hdrawn nofun
      obtain ⟨v, hsearch, hrun⟩ := exists_of_bind_ok hrun
      have hv := primesFound_of_searchPrimes (found := false) ⟨hu, rfl, nofun⟩ (by omega) hlt hsearch
      obtain ⟨hne, hp, hpe, hq, hqe, hphi⟩ := hv.fit
      obtain ⟨w, ⟨hn, hw⟩, hrun⟩ :=
        (hostMul_returns hv.toReady 13 7 8 (hv.mul_lt (hpe.trans hlt) (hqe.trans hlt))).of_bind_ok hrun
      have h12 : w.reg 12 ≠ 0 := by
        rw [hw.regs 12 (by decide), hv.phi]
        omega
      obtain ⟨⟨invertible, x⟩, ⟨hx, hinverse⟩, hrun⟩ := (deriveExponent_returns hw.toReady h12).of_bind_ok hrun
      dsimp only at hrun
      split at hrun
      · next hok =>
        obtain ⟨hgcd, hd, hmul⟩ := hinverse hok
        obtain ⟨⟨n, y⟩, ⟨rfl, hy⟩, hrun⟩ := (hostReadReg_returns hx.toReady 13).of_bind_ok hrun
        obtain ⟨⟨e, z⟩, ⟨rfl, hz⟩, hrun⟩ := (hostReadReg_returns hy.toReady 4).of_bind_ok hrun
        obtain ⟨⟨d, r⟩, ⟨rfl, hr⟩, hrun⟩ := (hostReadReg_returns hz.toReady 14).of_bind_ok hrun
        obtain ⟨rfl, -⟩ := Prod.mk.inj (Except.ok.inj hrun)
        have hkey := keyFits_of_registers hlt hodd hv hw hn hx hgcd hd hmul
        rwa [← hy.reg 4, ← hy.reg 14, ← hz.reg 14] at hkey
      · exact ih ((hv.keep hw (by decide)).keep hx (by decide)) hrun

/-- The constants are loaded first; `2**bitLength` is the shift of 1, in range as `bitLength` is (R191, R260). -/
theorem keygenReady_of_setup {B : Nat} {s : State} (h : Ready s) (hfits : 2 * B ≤ s.width) :
    Returns (hostCmd (.ldi 1 1) s >>= hostCmd (.ldi 3 2) >>= hostWriteReg 6 B >>= hostCmd (.shlv 2 1 6)) (KeygenReady B) := by
  simp only [bind_assoc]
  refine (hostCmd_result h (d := 1) (v := 1) rfl).bind fun t ⟨h1, ht⟩ => ?_
  refine (hostCmd_result ht.toReady (d := 3) (v := 2) rfl).bind fun u ⟨h3, hu⟩ => ?_
  have hwidth : u.width = s.width := hu.width.trans ht.width
  have hB : B < 2 ^ u.width := by
    have : u.width < 2 ^ u.width := Nat.lt_two_pow_self
    omega
  refine (hostWriteReg_returns hu.toReady 6 hB).bind fun v hv => ?_
  have hv1 : v.reg 1 = 1 := by
    rw [hv.reg, State.reg_setReg, if_neg (by decide), hu.regs 1 (by decide), h1]
  have hv3 : v.reg 3 = 2 := by rw [hv.reg, State.reg_setReg, if_neg (by decide), h3]
  have hv6 : v.reg 6 = B := by rw [hv.reg, State.reg_setReg, if_pos rfl]
  refine (hostCmd_result hv.toReady (d := 2) (v := truncW v.width (shiftLeftExact v.width (v.reg 1) (v.reg 6))) rfl).mono
    fun w ⟨h2, hw⟩ => ⟨hw.toReady, ?_, ?_, ?_, ?_⟩
  · rw [hw.width, hv.width, State.width_setReg, hwidth]
    exact hfits
  · rw [hw.regs 1 (by decide), hv1]
  · have hshift : B < v.width := by
      have := h.inv.width_ge
      rw [hv.width, State.width_setReg, hwidth]
      omega
    rw [h2, truncW_shiftLeftExact, hv1, hv6, Nat.one_mul, Nat.mod_eq_of_lt (Nat.pow_lt_pow_right (by decide) hshift)]
  · rw [hw.regs 3 (by decide), hv3]

/-- Settles O60: the budgets and the bit length are checked first, the constants are loaded, and every key that an attempt answers
fits. -/
theorem generatedKeysMeetTheirInvariants : Obligations.GeneratedKeysMeetTheirInvariants := by
  intro bitLength maxDraws maxAttempts s t key hinv hidle hrun
  simp only [generateOnEngine, ← bind_assoc] at hrun
  split at hrun
  · cases hrun
  next hbudgets =>
    split at hrun
    · cases hrun
    next hfits =>
      obtain ⟨hdraws, hattempts⟩ := not_not.mp hbudgets
      obtain ⟨u, hu, hrun⟩ := (keygenReady_of_setup ⟨hinv, hidle⟩ (Nat.le_of_not_lt hfits)).of_bind_ok hrun
      exact ⟨hdraws, hattempts, Nat.le_of_not_lt hfits, keyFits_of_attemptKeys hu hrun⟩

end Sys2Proof.Machine
end

section
/-! SUPPORT. The two ends of a completion (R282, R283) and the interrupt that follows it (R288), and the moves that begin a command or
abandon it: the acceptance (R280) and the two resets (R310). -/

namespace Sys2Proof.Machine

/-! ### The two ends of a completion -/

/-- The writes of a command are to registers, BUF, flags and the random source, so their completion is one without fault. -/
theorem CommandWrites.completed {i : Instr} {s u : State} (h : CommandWrites i s u) : Completed s u.finish := by
  rw [h.frame]
  exact completed_finish s _ _ _ _

theorem exec_completed_or_faulted {i : Instr} {s t : State} (h : exec i s = .next t) :
    Completed s t ∨ ∃ code ∈ ownFaults i.opcode, Faulted code s t := by
  obtain ⟨u, hu, rfl⟩ | ⟨code, hcode, rfl⟩ := exec_next_cases h
  · exact .inl hu.completed
  · exact .inr ⟨code, hcode, faulted_finish code s⟩

/-- Settles O6: every command ends in a next state, and its ends are a completion and the faults of its row. -/
theorem everyCommandCompletes : Obligations.EveryCommandCompletes := by
  intro i s
  obtain ⟨t, ht⟩ := (exec_ends i s).exists_next
  exact ⟨t, ht, exec_completed_or_faulted ht⟩

/-- `code` is a fault that the completion of the word `w` can raise: the decode fault of the word, or one of its command's row
(R98, R99, R285). -/
structure FaultOfWord (w : Word) (code : FaultCode) : Prop where
  command : ∀ i, decode w = .command i → code ∈ ownFaults i.opcode
  illegalOpcode : decode w = .illegalOpcode → code = .illegalOpcode
  reservedField : decode w = .reservedField → code = .reservedField

/-- The ends of the completion of any word, by what the word decodes to. -/
theorem completeLatched_completed_or_faulted {s t : State} (h : completeLatched s = .next t) :
    Completed s t ∨ ∃ code, FaultOfWord s.latch code ∧ Faulted code s t := by
  cases hdecode : decode s.latch with
  | command i =>
    obtain hcompleted | ⟨code, hcode, hfaulted⟩ := exec_completed_or_faulted (completeLatched_command hdecode ▸ h)
    · exact .inl hcompleted
    · have hword : FaultOfWord s.latch code := by constructor <;> simp [hdecode, hcode]
      exact .inr ⟨code, hword, hfaulted⟩
  | illegalOpcode =>
    have hword : FaultOfWord s.latch .illegalOpcode := by constructor <;> simp [hdecode]
    obtain rfl := raiseFault_next.mp (completeLatched_illegalOpcode hdecode ▸ h)
    exact .inr ⟨_, hword, faulted_finish _ s⟩
  | reservedField =>
    have hword : FaultOfWord s.latch .reservedField := by constructor <;> simp [hdecode]
    obtain rfl := raiseFault_next.mp (completeLatched_reservedField hdecode ▸ h)
    exact .inr ⟨_, hword, faulted_finish _ s⟩

/-- Settles O7: of the two ends of the completion, the one without fault keeps ERR = 0. -/
theorem faultsAreRecordedAndWithoutEffect : Obligations.FaultsAreRecordedAndWithoutEffect := by
  intro s t hlegal hphase hschedule hbefore hstep hafter
  rw [step_exec_nil hlegal hphase hschedule] at hstep
  obtain hcompleted | ⟨code, hword, hfaulted⟩ := completeLatched_completed_or_faulted hstep
  · exact absurd (hafter.symm.trans (hcompleted.err.trans hbefore)) nofun
  · exact ⟨code, hfaulted, hword.command, hword.illegalOpcode, hword.reservedField⟩

/-! ### The interrupt -/

/-- Both ends of a completion set DONE and keep IE, so IRQ is IE (R288). -/
theorem irq_of_completeLatched {s t : State} (h : completeLatched s = .next t) : t.irq = s.ie := by
  obtain hend | ⟨_, _, hend⟩ := completeLatched_completed_or_faulted h <;>
  rw [State.irq, hend.ie, hend.done, Bool.and_true]

/-- Settles O24, by the event that moves IRQ. -/
theorem interruptFollowsDoneAndEnable : Obligations.InterruptFollowsDoneAndEnable := by
  refine ⟨fun s w => ?acceptance, fun s t hphase h => ?completion, fun s w hdone => ?acknowledge, fun s w hsrst => ?enable,
    fun s => rfl⟩
  case acceptance => exact Bool.and_false _
  case completion => exact irq_of_completeLatched (engineStep_exec hphase ▸ h)
  case acknowledge =>
    obtain ⟨-, hstatus, -⟩ := controlWritesChangeTheirFields s w
    rw [hstatus, State.irq, hdone]
    exact Bool.and_false _
  case enable =>
    obtain ⟨hctrl, -, -⟩ := controlWritesChangeTheirFields s w
    rw [hctrl hsrst]
    rfl

/-! ### Acceptance and reset -/

/-- A scheduled write at an offset from BASE is the host write at that offset. -/
theorem step_write {s : State} {width : Width} {offset : Nat} {lanes : Word} {rest : List Move} (hlegal : s.config.Legal)
    (hoffset : offset < 0x10000) (h : s.schedule = .write width (s.config.base + offset) lanes :: rest) :
    step s = .next ({ s with schedule := rest }.hostWrite width offset lanes) := by
  rw [step_eq_move hlegal, move_write h]
  exact busWrite_base_add width lanes hoffset

/-- A write of CMD while idle accepts the word, unchecked (R280). -/
theorem hostWrite_cmd_idle {s : State} (hidle : s.phase = .idle) (w : Word) :
    s.hostWrite .word 0x00C w = (s.accept w).respond .written := by
  rw [hostWrite_control s w (r := .cmd) (by decide) (by decide), State.ctrlWrite, State.writeCmd, s.idle_iff.mpr hidle]
  rfl

/-- A write of CTRL with SRST = 1 is a reset, in every phase (R28, R310). -/
theorem hostWrite_softReset (s : State) {w : Word} (hsrst : w.getLsbD 1 = true) :
    s.hostWrite .word 0x004 w = s.resetEntry.respond .written := by
  rw [hostWrite_control s w (r := .ctrl) (by decide) (by decide), State.ctrlWrite, State.writeCtrl, if_pos hsrst]

/-- Settles O14. -/
theorem acceptanceLatchesTheWord : Obligations.AcceptanceLatchesTheWord := by
  intro s w rest hlegal hidle hschedule
  refine ⟨_, ?_, rfl, rfl, Bool.and_false _⟩
  rw [step_write hlegal (by decide) hschedule, hostWrite_cmd_idle (s := { s with schedule := rest }) hidle]
  rfl

/-- Settles O25: both sources reach the one reset entry. -/
theorem bothResetsEnterZeroisation : Obligations.BothResetsEnterZeroisation := by
  refine fun s w rest hlegal => ⟨fun hschedule => ?hard, fun hsrst hschedule => ?soft⟩
  case hard =>
    rw [step_eq_move hlegal, move_hardReset hschedule]
    rfl
  case soft =>
    rw [step_write hlegal (by decide) hschedule, hostWrite_softReset _ hsrst]
    rfl

end Sys2Proof.Machine
end

section
/-! SUPPORT. Accesses while BUSY = 1 (R319, R320): the offsets that BUSY guards, a write of one of them, and a read of one of them. -/

namespace Sys2Proof.Machine

/-- Above the control registers and the unmapped range lie the two windows (R61). -/
theorem regionOf_windows {offset : Nat} (h : 0x4000 ≤ offset) :
    (∃ i j, regionOf offset = .register i j) ∨ ∃ o, regionOf offset = .buffer o := by
  rw [regionOf, if_neg (by omega)]
  split
  · exact .inl ⟨_, _, rfl⟩
  · exact .inr ⟨_, rfl⟩

/-! ### Writes -/

/-- A write of a guarded offset while busy sets OVR and does nothing else (R26, R319). -/
theorem legalWrite_guarded {s : State} {offset : Nat} (hbusy : s.busy = true) (h : BusyGuarded offset) (width : Width)
    (lanes : Word) : s.legalWrite width offset lanes = s.overrun := by
  obtain rfl | rfl | hwindow := h
  · exact if_pos hbusy
  · exact if_pos hbusy
  · obtain ⟨i, j, hregion⟩ | ⟨o, hregion⟩ := regionOf_windows hwindow <;>
    rw [State.legalWrite, hregion] <;>
    exact if_pos hbusy

/-- ID, PARAM, ERRCODE, ERRCMD and the unmapped range ignore writes in every phase (R25, R65). -/
theorem legalWrite_readOnly (s : State) {offset : Nat}
    (h : offset ∈ [0x000, 0x010, 0x014, 0x01C] ∨ (0x020 ≤ offset ∧ offset < 0x4000)) (width : Width) (lanes : Word) :
    s.legalWrite width offset lanes = s := by
  obtain hreadOnly | ⟨hlo, hhi⟩ := h
  · simp only [List.mem_cons, List.not_mem_nil, or_false] at hreadOnly
    obtain rfl | rfl | rfl | rfl := hreadOnly <;> rfl
  · rw [State.legalWrite, regionOf_unmapped hlo hhi]

/-- Settles O15: a legal write is performed, and while busy that is an overrun at the guarded offsets. -/
theorem writesWhileBusyOnlySetOverrun : Obligations.WritesWhileBusyOnlySetOverrun := by
  intro s width offset data ⟨_, hlegal⟩
  rw [State.hostWrite, if_pos hlegal]
  refine ⟨fun hbusy hguarded => ?_, fun hreadOnly => ?_⟩
  · rw [legalWrite_guarded hbusy hguarded]
    rfl
  · rw [legalWrite_readOnly s hreadOnly]
    rfl

/-! ### Reads -/

/-- A read of FLAGS or of a window while busy answers a free value (R320). -/
theorem legalRead_guarded {s : State} {offset : Nat} (hbusy : s.busy = true) (h : offset = 0x018 ∨ 0x4000 ≤ offset) :
    s.legalRead offset = s.busyRead := by
  obtain rfl | hwindow := h
  · exact if_pos hbusy
  · obtain ⟨i, j, hregion⟩ | ⟨o, hregion⟩ := regionOf_windows hwindow <;>
    rw [State.legalRead, hregion] <;>
    exact if_pos hbusy

/-- The next value of a stream is the first one supplied. -/
theorem FreeStream.nth_zero_of_supplied {st : FreeStream} {v : Nat} {rest : List Nat} (h : st.supplied = v :: rest)
    (free : Nat → Nat) : st.nth free 0 = v := by
  simp [FreeStream.nth, h]

/-- Each value of the access's width is that of its lanes on some data bus (R70). -/
theorem exists_laneValue {width : Width} {offset v : Nat} (hlegal : accessLegal width offset = true)
    (hv : v < 256 ^ width.bytes) : ∃ lanes, (laneValue width offset lanes).toNat = v := by
  have hword : (BitVec.ofNat 32 v).toNat = v := by
    refine Nat.mod_eq_of_lt (hv.trans_le ?_)
    cases width <;> decide
  exact ⟨_, (congrArg BitVec.toNat (laneValue_laneWord hlegal (hword.symm ▸ hv))).trans hword⟩

/-- Settles O16: the read is the free one, whose data bus is the next word of the stream. -/
theorem readsWhileBusyAreUnconstrained : Obligations.ReadsWhileBusyAreUnconstrained := by
  intro s width offset ⟨_, hlegal⟩ hbusy hguarded
  have hread : s.hostRead width offset =
      { s with
        busyReads := s.busyReads.advance 1
        response := some (.data (BitVec.ofNat 32 (s.busyReads.nth Config.freeRead 0))) } := by
    rw [State.hostRead, if_pos hlegal, legalRead_guarded hbusy hguarded, busyRead_eq]
    rfl
  refine ⟨⟨_, hread⟩, fun lanes rest hsupplied => ?supplied, fun v hv => exists_laneValue hlegal hv⟩
  case supplied =>
    rw [hread, FreeStream.nth_zero_of_supplied hsupplied, BitVec.ofNat_toNat, BitVec.setWidth_eq]

end Sys2Proof.Machine
end

section
/-! SUPPORT. The per-command protocol with each of its waits, as an equation of the states (R316, R323): on an idle engine with legal
parameters it leaves exactly the command's state, but for the answer of the bus. -/

namespace Sys2Proof.Machine

/-- An action known to end without error is followed by the rest of the procedure. -/
theorem bind_ok {α β : Type} {x : Except ProcError α} {a : α} (h : x = .ok a) (f : α → Except ProcError β) :
    x >>= f = f a := by
  rw [h]
  rfl

/-! ### The answer of the bus -/

/-- The state with another last answer of the bus. -/
def State.answered (s : State) (resp : Option BusResponse) : State := { s with response := resp }

/-- No command looks at the answer of the bus. -/
theorem exec_answered_alike (i : Instr) (s : State) (resp : Option BusResponse) :
    EndAlike (fun u u' => u' = u.answered resp) s (s.answered resp) (exec i s) (exec i (s.answered resp)) := by
  cases i with
  | mov | ldi | add | sub | mul | cmp | shl | shr | shlv | shrv | bitlen | gcd | xgcd | mrtest => exact .completes rfl
  | divmod | rand | bsize | unpack | marker | modmul | modexp => exact .guard (.completes rfl)
  | modinv | pack => exact .guard (.guard (.completes rfl))
  | dlen => exact .guard (.guard (.guard (.guard (.completes rfl))))

theorem exec_answered {i : Instr} {s t : State} (resp : Option BusResponse) (h : exec i s = .next t) :
    exec i (s.answered resp) = .next (t.answered resp) := by
  obtain ⟨u, u', rfl, rfl, h'⟩ | ⟨code, rfl, h'⟩ := (exec_answered_alike i s resp).next h
  · exact h'
  · exact h'

/-! ### The accesses of the protocol -/

/-- With no move left, a load of a control register other than FLAGS changes nothing but the answer of the bus, in every phase. -/
theorem hostLoad_control_answered {s : State} (h : s.config.Legal) (hnil : s.schedule = []) {offset : Nat} {r : CtrlReg}
    (hr : r ≠ .flags) (ho : offset < 0x10000) (hlegal : accessLegal .word offset = true) (hoffset : offset % 4 = 0)
    (hregion : regionOf offset = .control r) :
    hostLoad .word offset s = .ok (s.ctrlRead r, s.answered (some (.data (s.ctrlRead r)))) := by
  have hspent : s.spent = s := by rw [State.spent, ← hnil]
  have hread : s.hostRead .word offset = s.answered (some (.data (s.ctrlRead r))) := by
    rw [State.hostRead, if_pos hlegal, State.legalRead, hregion]
    cases r with
    | flags => exact absurd rfl hr
    | id | ctrl | status | cmd | errcode | param | errcmd => rfl
  refine hostLoad_ok.mpr ⟨?_, _, rfl, laneValue_word _ hoffset⟩
  rw [perform_read h ho, hspent, hread]

theorem hostLoad_status {s : State} (h : s.config.Legal) (hnil : s.schedule = []) :
    hostLoad .word 0x008 s = .ok (s.statusWord, s.answered (some (.data s.statusWord))) :=
  hostLoad_control_answered (r := .status) h hnil (by decide) (by decide) (by decide) (by decide) (by decide)

theorem hostLoad_errcode {s : State} (h : s.config.Legal) (hnil : s.schedule = []) :
    hostLoad .word 0x010 s = .ok (s.errcodeWord, s.answered (some (.data s.errcodeWord))) :=
  hostLoad_control_answered (r := .errcode) h hnil (by decide) (by decide) (by decide) (by decide) (by decide)

theorem hostLoad_errcmd {s : State} (h : s.config.Legal) (hnil : s.schedule = []) :
    hostLoad .word 0x01C s = .ok (s.errcmd, s.answered (some (.data s.errcmd))) :=
  hostLoad_control_answered (r := .errcmd) h hnil (by decide) (by decide) (by decide) (by decide) (by decide)

/-- Polls of STATUS while BUSY = 1 all find it so, and change nothing else (R323). -/
theorem pollBusy_busy {s : State} (h : s.config.Legal) (hnil : s.schedule = []) (hbusy : s.busy = true) (early : Nat) :
    ∃ resp, pollBusy early s = .ok (s.answered resp) := by
  induction early generalizing s with
  | zero => exact ⟨s.response, rfl⟩
  | succ early ih =>
    obtain ⟨resp, hrest⟩ := ih (s := s.answered (some (.data s.statusWord))) h hnil hbusy
    have hbit : s.statusWord.getLsbD 0 = true := (statusWord_bits s).1.trans hbusy
    refine ⟨resp, ?_⟩
    rw [pollBusy, bind_ok (hostLoad_status h hnil)]
    exact (if_pos hbit).trans hrest

/-- On an idle engine the outcome is the fault record, and reading it changes nothing but the answer of the bus (R316). -/
theorem hostOutcome_answered {s : State} (h : s.config.Legal) (hnil : s.schedule = []) (hidle : s.phase = .idle) :
    ∃ resp, hostOutcome s = .ok (s.faultRecord, s.answered resp) := by
  obtain ⟨hbusy, herr⟩ := statusWord_bits s
  rw [s.idle_iff.mpr hidle] at hbusy
  have hcode := hostLoad_errcode (s := s.answered (some (.data s.statusWord))) h hnil
  have hcommand := hostLoad_errcmd (s := s.answered (some (.data s.errcodeWord))) h hnil
  rw [hostOutcome, bind_ok (hostLoad_status h hnil), State.faultRecord, ← errcodeWord_eq]
  simp only [hbusy, herr, Bool.false_eq_true, if_false]
  split
  · exact ⟨_, (bind_ok hcode _).trans (bind_ok hcommand _)⟩
  · exact ⟨_, rfl⟩

/-! ### The protocol -/

/-- The state in which the engine completes the word `w` that the host has written to CMD (R280), with no move left. -/
def State.accepted (s : State) (w : Word) : State := (s.accept w).spent

theorem hostStore_cmd_accepted {s : State} (h : s.config.Legal) (hidle : s.phase = .idle) (w : Word) :
    hostStore .word 0x00C w s = .ok ((s.accepted w).answered (some .written)) := by
  rw [hostStore_eq h (by decide) (by decide), laneWord_aligned (by decide), hostWrite_cmd_idle (s := s.spent) hidle]
  rfl

section
variable {i : Instr} {s t : State}

/-- The engine's move on an accepted command is the command, whatever the bus answered meanwhile. -/
theorem perform_engine_accepted (h : s.config.Legal) (hexec : exec i (s.accepted (encode i)) = .next t)
    (resp : Option BusResponse) : perform .engine ((s.accepted (encode i)).answered resp) = .ok (t.answered resp) := by
  refine perform_ok.mpr ?_
  rw [step_exec_engine (s := { (s.accepted (encode i)).answered resp with schedule := [.engine] }) h rfl rfl]
  exact (completeLatched_command (s := (s.accepted (encode i)).answered resp) (decode_encode i)).trans
    (exec_answered resp hexec)

/-- However often the host polls before the completion, the wait ends with the command's state (R323). -/
theorem awaitCompletion_poll (h : s.config.Legal) (hexec : exec i (s.accepted (encode i)) = .next t)
    (resp : Option BusResponse) (early : Nat) :
    ∃ resp', awaitCompletion (.poll early) ((s.accepted (encode i)).answered resp) = .ok (t.answered resp') := by
  obtain ⟨resp', hpolls⟩ := pollBusy_busy (s := (s.accepted (encode i)).answered resp) h rfl rfl early
  refine ⟨resp', ?_⟩
  rw [awaitCompletion, bind_ok hpolls]
  exact perform_engine_accepted h hexec resp'

/-- The wait for IRQ ends with the command's state exactly when IRQ follows the completion (R288, R316). -/
theorem awaitCompletion_interrupt (h : s.config.Legal) (hexec : exec i (s.accepted (encode i)) = .next t)
    (resp : Option BusResponse) :
    awaitCompletion .interrupt ((s.accepted (encode i)).answered resp) =
      if s.ie then .ok (t.answered resp) else .error .noInterrupt := by
  have hirq : t.irq = s.ie :=
    irq_of_completeLatched (s := s.accepted (encode i)) ((completeLatched_command (decode_encode i)).trans hexec)
  rw [awaitCompletion, bind_ok (perform_engine_accepted h hexec resp), ← hirq]
  rfl

theorem awaitCompletion_returns {wait : Wait} (h : s.config.Legal) (hwait : wait ≠ .interrupt ∨ s.ie = true)
    (hexec : exec i (s.accepted (encode i)) = .next t) (resp : Option BusResponse) :
    ∃ resp', awaitCompletion wait ((s.accepted (encode i)).answered resp) = .ok (t.answered resp') := by
  cases wait with
  | poll early => exact awaitCompletion_poll h hexec resp early
  | interrupt =>
    have hie : s.ie = true := hwait.resolve_left fun hne => hne rfl
    exact ⟨resp, (awaitCompletion_interrupt h hexec resp).trans (if_pos hie)⟩

/-- An accepted command starts with ERR = 0, so an ERR after it is its own fault, with the command's word in the record (R283). -/
theorem faultRecord_of_accepted (hexec : exec i (s.accepted (encode i)) = .next t) :
    t.faultRecord = if t.err then some { code := t.errcode.setWidth 32, command := encode i } else none := by
  obtain hcompleted | ⟨code, -, hfaulted⟩ := exec_completed_or_faulted hexec
  · have herr : t.err = false := hcompleted.err
    rw [State.faultRecord, herr]
    rfl
  · rw [State.faultRecord, hfaulted.errcmd]
    rfl

/-- Either end of a command leaves an idle engine with the parameters and the moves it started with (R282). -/
theorem exec_frame (hexec : exec i s = .next t) : t.config = s.config ∧ t.schedule = s.schedule ∧ t.phase = .idle := by
  obtain hend | ⟨_, -, hend⟩ := exec_completed_or_faulted hexec
  · exact ⟨hend.config, hend.schedule, hend.idle⟩
  · exact ⟨hend.config, hend.schedule, hend.idle⟩

end

/-- Settles O57: the write of CMD, the wait and the outcome are each known, and only the wait depends on how the host waits. -/
theorem hostCommandRunsTheCommand : Obligations.HostCommandRunsTheCommand := by
  intro wait i s hlegal hidle
  obtain ⟨t, hexec⟩ := (exec_ends i (s.accepted (encode i))).exists_next
  rw [hostCommand, bind_ok (hostStore_cmd_accepted hlegal hidle _)]
  refine ⟨fun hwait => ⟨t, hexec, ?runs⟩, ?noInterrupt⟩
  case runs =>
    obtain ⟨resp, hawait⟩ := awaitCompletion_returns hlegal hwait hexec (some .written)
    obtain ⟨hconfig, hnil, htidle⟩ := exec_frame hexec
    have htlegal : t.config.Legal := hconfig.symm ▸ hlegal
    obtain ⟨resp', houtcome⟩ := hostOutcome_answered (s := t.answered resp) htlegal hnil htidle
    refine ⟨resp', ?_⟩
    rw [bind_ok hawait, ← faultRecord_of_accepted hexec]
    exact houtcome
  case noInterrupt =>
    rintro rfl hie
    have hawait := awaitCompletion_interrupt hlegal hexec (some .written)
    rw [hie] at hawait
    exact bind_error hawait _

end Sys2Proof.Machine
end
